-- ==== Sys2Proof/Word.lean ====
section
/-! DEFINITION. The word and byte types of the RC5-32/12/16 core (spec/00_scope.md R5, R6, R9). -/

namespace Sys2Proof

/-- A word: an unsigned 32-bit value (R5 `W = 32`, R9). -/
abbrev Word := BitVec 32

/-- A byte: an unsigned 8-bit value (R9). -/
abbrev Byte := BitVec 8

/-- An offset within the 256-byte register window (R31: "All rules use 8-bit offsets within the window"). -/
abbrev Offset := BitVec 8

/-- A Block: a pair of words `(M[0], M[1])` (Glossary of spec/00_scope.md). -/
abbrev Block := Word × Word

/-- The Expanded Key Table `S[0..25]` (R26; `T = 26` words, R6). -/
abbrev Table := Vector Word 26

/-- The Secret Key `K[0..15]` (R5 `KEYBYTES = 16`). -/
abbrev KeyBytes := Vector Byte 16

/-- The Local Mixing State `L[0..3]`, and equally the four KEY registers (R6 `C = 4`, R14). -/
abbrev KeyWords := Vector Word 4

end Sys2Proof
end

