-- ==== Sys2Proof/Config.lean ====
section
/-! DEFINITION. What the spec fixes as parameters (R5 to R7), what it leaves to the implementation (R8), and the
free values (R11 `draw32`, R28): constants without a body, of which nothing in Lean can know a value. -/

namespace Sys2Proof

/-- The datapath working state (R28): the key-mixing array `L[0..3]`, the rolling variables `A` and `B`, the indices
`i` (mod 26) and `j` (mod 4), the mixing-iteration counter and the round counter. No host access reads or writes it. -/
structure Datapath where
  L : KeyWords
  A : Word
  B : Word
  i : Fin 26
  j : Fin 4
  iteration : Nat
  round : Nat
  deriving DecidableEq, Repr, Inhabited

namespace Config

/-- `ROUNDS` (R5). -/
abbrev rounds : Nat := 12

/-- `KEYBYTES` (R5). -/
abbrev keyBytes : Nat := 16

/-- `T = 2*(ROUNDS+1)` (R6): the number of words of the expanded key table. -/
abbrev tableWords : Nat := 2 * (rounds + 1)

/-- `C = 16/4` (R6): the number of words of the mixing array. -/
abbrev mixWords : Nat := keyBytes / 4

/-- `V = 3 * max(26, 4)` (R6): the number of mixing iterations. -/
abbrev mixIterations : Nat := 3 * max tableWords mixWords

/-- The magic constant `P` (R7). -/
def magicP : Word := 0xB7E15163#32

/-- The magic constant `Q` (R7). -/
def magicQ : Word := 0x9E3779B9#32

/-- `BASE_ADDR` (R8, R31, I7): where the host places the window. No rule depends on its value. -/
opaque baseAddr : Nat

/-- `LAT_EXPAND` (R8, R106, I6), at least 1 by its type. No rule of the model reads it. -/
opaque latExpand : PNat

/-- `LAT_ENCRYPT` (R8, R106, I6). -/
opaque latEncrypt : PNat

/-- `LAT_DECRYPT` (R8, R106, I6). -/
opaque latDecrypt : PNat

/-- The free value of `draw32()` (R11, R38, I1, I2), applied to the model's draw counter: each draw has a value of its
own, and nothing says which (log entry 2). -/
opaque draw32 : Nat → Word

/-- The datapath working state after a completion or a reset, which R28 and R96 call unspecified: a free value, applied
to the model's draw counter (log entry 3). -/
opaque freeDatapath : Nat → Datapath

end Config

end Sys2Proof
end

