-- ==== Sys2Proof/Syntax.lean ====
section
/-! DEFINITION. The three commands of the core (spec/30_encoding.md R48, spec/opcode_table.json), the names of the
register window (R32), and the host's side of the interface: one bus access or one WAIT (R53, R54). -/

namespace Sys2Proof

/-- The commands of the core, one constructor per row of the opcode table. Every operand is implicit (R50), so no
constructor has an argument. -/
inductive Instr where
  /-- Key-schedule expansion (R64). -/
  | expand
  /-- Block encryption (R73). -/
  | encrypt
  /-- Block decryption (R77). -/
  | decrypt
  deriving DecidableEq, Repr

/-- What stands at an offset of the register window (R32). -/
inductive WindowReg where
  | key (n : Fin 4)
  | din (n : Fin 2)
  | dout (n : Fin 2)
  | cmd
  | status
  | table (i : Fin 26)
  | reserved
  deriving DecidableEq, Repr

/-- One line of a host program (R53, R54): a bus access with its offset and its width in bytes, or the host's own
polling loop WAIT. -/
inductive HostOp where
  /-- A host read of `width` bytes at `off`; `MemRead(off, 4)` where `width` is 4. -/
  | read (off : Offset) (width : Nat)
  /-- A host write of `width` bytes at `off`; `MemWrite(off, 4, v)` where `width` is 4. -/
  | write (off : Offset) (width : Nat) (v : Word)
  /-- `WAIT`: read STATUS until its bit 0 is 0 (R54). -/
  | wait
  deriving DecidableEq, Repr

/-- The pseudo-instructions of R54. -/
inductive Pseudo where
  | expand
  | encrypt
  | decrypt
  | setKey (k : KeyBytes)
  | setBlk (m0 m1 : Word)
  | getBlk
  | wait
  | clrErr
  deriving DecidableEq, Repr

end Sys2Proof
end

