-- ==== Sys2Proof/WellFormed.lean ====
section
/-! DEFINITION. What is well formed: a command, a command word (R47, R48) and a host access (R33). -/

namespace Sys2Proof

/-- Every command is well formed: a command has no operand field (R50), so nothing about one could be out of range. -/
def Instr.wf : Instr → Bool
  | .expand => true
  | .encrypt => true
  | .decrypt => true

/-- A command word is well formed when bits 31:4 (`RSV`) are 0 and bits 3:0 (`OPC`) are one of the three assigned
codes (R47, R48, R51). -/
def commandWordWf (w : Word) : Bool :=
  w >>> 4 == 0 && (w &&& 0xF == 1 || w &&& 0xF == 2 || w &&& 0xF == 3)

/-- An access the core defines is 32 bits wide, at an offset that is a multiple of 4 (R33). -/
def accessWf (off : Offset) (width : Nat) : Bool :=
  width == 4 && off.toNat % 4 == 0

/-- A line of a host program is well formed when its access is one the core defines. `WAIT` reads STATUS only. -/
def HostOp.wf : HostOp → Bool
  | .read off width => accessWf off width
  | .write off width _ => accessWf off width
  | .wait => true

end Sys2Proof
end

