-- ==== Sys2Proof/Decode.lean ====
section
/-! DEFINITION. The decoder of command words, total on every 32-bit word (spec/30_encoding.md R49), and the encoder
(R48). -/

namespace Sys2Proof

/-- Why a word decodes to ILLEGAL (R49, R51). Both are one thing to the core: `ILLEGAL_CMD`. -/
inductive Illegal where
  /-- `w[31:4] ≠ 0`. -/
  | reservedBitsSet
  /-- `OPC` is `0x0` or `0x4`..`0xF`. -/
  | unassignedOpcode
  deriving DecidableEq, Repr

/-- The field `RSV` of a command word, bits 31:4 (R47). -/
def rsvField (w : Word) : BitVec 28 := w.extractLsb' 4 28

/-- The field `OPC` of a command word, bits 3:0 (R47). -/
def opcField (w : Word) : BitVec 4 := w.extractLsb' 0 4

/-- The decoder of R49: three words are commands, every other word is ILLEGAL. -/
def decode (w : Word) : Except Illegal Instr :=
  if rsvField w ≠ 0 then .error .reservedBitsSet
  else if opcField w = 1 then .ok .expand
  else if opcField w = 2 then .ok .encrypt
  else if opcField w = 3 then .ok .decrypt
  else .error .unassignedOpcode

/-- The operation code of a command (R48). -/
def opcodeOf : Instr → BitVec 4
  | .expand => 1
  | .encrypt => 2
  | .decrypt => 3

/-- The encoder of R48: the operation's full word. -/
def encode (i : Instr) : Word := (0 : BitVec 28) ++ opcodeOf i

/-- The command the decoder reads from a table row's bits: a command is one 32-bit word (R52), and the bits the row
does not give are 0. -/
def decodeTableWord (nbits w : Nat) : Option Instr :=
  if nbits ≤ 32 then
    match decode (BitVec.ofNat 32 (w % 2 ^ nbits)) with
    | .ok i => some i
    | .error _ => none
  else none

end Sys2Proof
end

