-- ==== Sys2Proof/Machine/State.lean ====
section
/-! DEFINITION. The state of the core (spec/10_state.md R12), the host and the schedule that drive it (R42), and the
reasons a step can stop. -/

namespace Sys2Proof.Machine

/-- `PEND`, the pending-operation record with its operand snapshot (R27). -/
inductive Pending where
  /-- `NONE`: the core is idle (R95). -/
  | none
  /-- `EXPAND(kb)`: the snapshot of `K[0..15]`. -/
  | expand (kb : KeyBytes)
  /-- `ENCRYPT(m0, m1)`: the snapshot of DIN0, DIN1. -/
  | encrypt (m0 m1 : Word)
  /-- `DECRYPT(c0, c1)`: the snapshot of DIN0, DIN1. -/
  | decrypt (c0 c1 : Word)
  deriving DecidableEq, Repr

/-- The causes of a command error (R84). The core records one; none of them stops it (R83). -/
inductive CmdError where
  /-- Code 1: a CMD write while idle of a word that decodes to ILLEGAL. -/
  | illegalCmd
  /-- Code 2: a CMD write of any word while `PEND ≠ NONE`. -/
  | busyCmd
  /-- Code 3: a CMD write of ENCRYPT or DECRYPT while idle and `TV = 0`. -/
  | noTable
  deriving DecidableEq, Repr

/-- The state of the core, all of it (R12, R30). CMD holds no state (R17). `STATUS.BUSY` is 1 exactly when
`PEND ≠ NONE` (R19), so it is read from `pend` and not stored a second time. -/
structure CoreState where
  /-- `KEY0`..`KEY3` (R14). -/
  key : KeyWords
  /-- `DIN0`, `DIN1` (R15). -/
  din : Vector Word 2
  /-- `DOUT0`, `DOUT1` (R16). -/
  dout : Vector Word 2
  /-- `STATUS.TV` (R20). -/
  tv : Bool
  /-- `STATUS.ERR` (R21). -/
  err : Bool
  /-- `STATUS.ERRCODE` (R22). -/
  errcode : BitVec 4
  /-- `STATUS.LASTOP` (R23). -/
  lastop : BitVec 4
  /-- The expanded key table `S[0..25]` (R26). -/
  S : Table
  /-- `PEND` (R27). -/
  pend : Pending
  /-- The datapath working state (R28); nothing reads it. -/
  datapath : Datapath
  deriving DecidableEq, Repr

/-- Who takes the next step of the execution (R42): the host, the core with its completion step, or the platform with
a reset (R96). -/
inductive Turn where
  | host
  | core
  | reset
  deriving DecidableEq, Repr

/-- One word the host has read (R53 `RD`): the offset and the value the core answered. -/
structure ReadRecord where
  off : Offset
  value : Word
  deriving DecidableEq, Repr

/-- The machine: the core, and beside it what the model needs to run it (log entries 1, 2 and 4). An execution is an
interleaving of host accesses and completion steps (R42), and the rules leave that interleaving open (R106, I12), so it
is plain data here: `program` is what the host has left to do, in its program order, and `sched` says who takes each
coming step. -/
structure State where
  core : CoreState
  /-- The host's remaining accesses, the next one first. -/
  program : List HostOp
  /-- Whose turn each coming step is, the next one first. -/
  sched : List Turn
  /-- The words the host has read so far, the last one first. -/
  readLog : List ReadRecord
  /-- How many free values have been drawn so far. -/
  draws : Nat
  deriving DecidableEq, Repr

/-- What stops a run. -/
inductive Fault where
  /-- `BusAccessError(off, width)` (R89): raised by a host access that is not 32 bits wide or not aligned (R33). It is
  the spec's own fault of the model; safe (I3): nothing is claimed of a run that reaches it. -/
  | busAccessError (off : Offset) (width : Nat)
  deriving DecidableEq, Repr

/-- Why an instruction has no meaning. -/
inductive Refusal where
  /-- Raised by an arm of `exec` whose instruction has no meaning yet; no arm is so now. Safe. -/
  | notModelled (mnemonic : String)
  deriving DecidableEq, Repr

/-- The core after reset (R96, R97). The spec gives no contents of `S` and no datapath state: zero is the model's own
choice for them (log entries 5 and 6). -/
def CoreState.reset : CoreState where
  key := Vector.replicate 4 0
  din := Vector.replicate 2 0
  dout := Vector.replicate 2 0
  tv := false
  err := false
  errcode := 0
  lastop := 0
  S := Vector.replicate 26 0
  pend := .none
  datapath := { L := Vector.replicate 4 0, A := 0, B := 0, i := 0, j := 0, iteration := 0, round := 0 }

/-- The machine right after reset: the core as the spec says, and a host that has been given nothing to do (log
entry 4). -/
def State.reset : State where
  core := CoreState.reset
  program := []
  sched := []
  readLog := []
  draws := 0

end Sys2Proof.Machine
end

