-- ==== Sys2Proof/Machine/Flags.lean ====
section
/-! DEFINITION. The flags: the core has none but the fields of STATUS (R13), assembled as R18 says. -/

namespace Sys2Proof.Machine

/-- An operation is pending: `PEND ≠ NONE` (R19). -/
def Pending.busy : Pending → Bool
  | .none => false
  | .expand _ => true
  | .encrypt _ _ => true
  | .decrypt _ _ => true

/-- `PEND` is ENCRYPT or DECRYPT: the results in DOUT are not ready (R38, R101). -/
def Pending.transforming : Pending → Bool
  | .none => false
  | .expand _ => false
  | .encrypt _ _ => true
  | .decrypt _ _ => true

/-- `STATUS.BUSY` (R19). -/
def CoreState.busy (c : CoreState) : Bool := c.pend.busy

/-- The value STATUS reads as (R18): `zext_32(LASTOP || ERRCODE || ERR || 0 || TV || BUSY)`. The reserved bits 2 and
31:12 read 0 (R24). -/
def CoreState.statusWord (c : CoreState) : Word :=
  (c.lastop ++ c.errcode ++ BitVec.ofBool c.err ++ BitVec.ofBool false ++ BitVec.ofBool c.tv
    ++ BitVec.ofBool c.busy).setWidth 32

/-- The code that ERRCODE records for a command error (R84). -/
def CmdError.code : CmdError → BitVec 4
  | .illegalCmd => 1
  | .busyCmd => 2
  | .noTable => 3

end Sys2Proof.Machine
end

