-- ==== Sys2Proof/Machine/Operands.lean ====
section
/-! DEFINITION. The operands of the commands, every one implicit (R50): the snapshots that R27 takes of KEY and DIN,
and the register map that says which register stands at an offset (R32). -/

namespace Sys2Proof.Machine

/-- Key byte `K[x]`: bits `8b+7:8b` of `KEYn` for `x = 4n + b` (R14, R64). -/
def keyByte (key : KeyWords) (x : Fin 16) : Byte :=
  (key[x.val / 4]'(by omega)).extractLsb' (8 * (x.val % 4)) 8

/-- The snapshot of `K[0..15]` that the issue of EXPAND takes (R27, R64). -/
def keySnapshot (key : KeyWords) : KeyBytes := Vector.ofFn (keyByte key)

/-- The Block in DIN0, DIN1 that the issue of ENCRYPT or DECRYPT takes (R15, R27). -/
def blockOperand (c : CoreState) : Block := (c.din[0], c.din[1])

/-- The register at a window offset that is a multiple of 4 (R32). -/
def regAt (off : Offset) : WindowReg :=
  if h : off.toNat < 0x10 then .key ⟨off.toNat / 4, by omega⟩
  else if h : off.toNat < 0x18 then .din ⟨(off.toNat - 0x10) / 4, by omega⟩
  else if h : off.toNat < 0x20 then .dout ⟨(off.toNat - 0x18) / 4, by omega⟩
  else if off.toNat < 0x24 then .cmd
  else if off.toNat < 0x28 then .status
  else if off.toNat < 0x40 then .reserved
  else if h : off.toNat < 0xA8 then .table ⟨(off.toNat - 0x40) / 4, by omega⟩
  else .reserved

/-- The offset of a named register (R32, R53 `offset(<reg>)`). A reserved offset has no name; `0x28` is the first. -/
def offsetOf : WindowReg → Offset
  | .key n => BitVec.ofNat 8 (4 * n.val)
  | .din n => BitVec.ofNat 8 (0x10 + 4 * n.val)
  | .dout n => BitVec.ofNat 8 (0x18 + 4 * n.val)
  | .cmd => 0x20
  | .status => 0x24
  | .table i => BitVec.ofNat 8 (0x40 + 4 * i.val)
  | .reserved => 0x28

/-- The host address of a window offset (R31): the window starts at `BASE_ADDR`. -/
def hostAddress (off : Offset) : Nat := Config.baseAddr + off.toNat

/-- The window offset of a host address, where the window has one (R31). -/
def windowOffset (addr : Nat) : Option Offset :=
  if Config.baseAddr ≤ addr ∧ addr < Config.baseAddr + 256 then some (BitVec.ofNat 8 (addr - Config.baseAddr))
  else none

end Sys2Proof.Machine
end

