-- ==== Sys2Proof/Machine/Ops.lean ====
section
/-! DEFINITION. The shared operations on the state: recording a command error, which is all the core has for an
exception (R83, R86), and clearing it, which is all it has for a return (R25, R86); the acceptance of a decoded command
(R85); issue and completion; drawing a free value (R11); answering a host read. -/

namespace Sys2Proof.Machine

/-- The state with another core beside the same host. -/
def State.withCore (s : State) (c : CoreState) : State := { s with core := c }

/-- `raise CmdError(code)` (R86): the first error is recorded, a further one changes nothing. -/
def CoreState.raiseCmdError (e : CmdError) (c : CoreState) : CoreState :=
  if c.err then c else { c with err := true, errcode := e.code }

/-- `raise CmdError(code)` (R86) as a step of the machine: the command is dropped, the core goes on (R83, R87). -/
def raiseCmdError (e : CmdError) (s : State) : State := s.withCore (s.core.raiseCmdError e)

/-- A host write `v` to STATUS (R25): bit 3 = 1 clears ERR and ERRCODE; every other bit is ignored. -/
def CoreState.writeStatus (v : Word) (c : CoreState) : CoreState :=
  if v.getLsbD 3 then { c with err := false, errcode := 0 } else c

/-- The acceptance of a decoded command (R85): BUSY_CMD while an operation is pending; NO_TABLE where the command needs
the table and `TV = 0`; otherwise the command's issue rule runs. -/
def acceptCommand (needsTable : Bool) (issue : CoreState → CoreState) (s : State) :
    Host.Outcome State Fault Refusal :=
  if s.core.busy then .next (raiseCmdError .busyCmd s)
  else if needsTable && !s.core.tv then .next (raiseCmdError .noTable s)
  else .next (s.withCore (issue s.core))

/-- `draw32()` (R11): a fresh free value, and the counter moved on. -/
def draw32 (s : State) : Word × State := (Config.draw32 s.draws, { s with draws := s.draws + 1 })

/-- The datapath working state becomes unspecified (R28): it takes a fresh free value. -/
def scrambleDatapath (s : State) : State :=
  { s with core := { s.core with datapath := Config.freeDatapath s.draws }, draws := s.draws + 1 }

/-- The host receives `v` as the answer to its read at `off` (R53 `RD`). -/
def State.logRead (off : Offset) (v : Word) (s : State) : State :=
  { s with readLog := { off := off, value := v } :: s.readLog }

/-- The writes of KEY and DIN that a host may make at any time (R39). -/
def CoreState.writeKey (n : Fin 4) (v : Word) (c : CoreState) : CoreState := { c with key := c.key.set n v }

/-- See `CoreState.writeKey`. -/
def CoreState.writeDin (n : Fin 2) (v : Word) (c : CoreState) : CoreState := { c with din := c.din.set n v }

end Sys2Proof.Machine
end

