-- ==== Sys2Proof/Machine/Primitives.lean ====
section
/-! DEFINITION. The word primitives of the datapath (spec/40_primitives.md R55 to R61). Each is a total function of
words; none sets a flag or raises an exception (R63). -/

namespace Sys2Proof.Machine

/-- `add32` (R55): the sum of two words, modulo 2^32. -/
def add32 (a b : Word) : Word := BitVec.ofNat 32 (a.toNat + b.toNat)

/-- `sub32` (R56): `(a - b + 2^32) mod 2^32`. -/
def sub32 (a b : Word) : Word := BitVec.ofNat 32 (a.toNat + 2 ^ 32 - b.toNat)

/-- `xor32` (R57). -/
def xor32 (a b : Word) : Word := a ^^^ b

/-- `x << s` (R58): `(x * 2^s) mod 2^32`, so 0 for `s ≥ 32`. -/
def shl32 (x : Word) (s : Nat) : Word := x <<< s

/-- `x >> s` (R58): `floor(x / 2^s)`, so 0 for `s ≥ 32`. -/
def shr32 (x : Word) (s : Nat) : Word := x >>> s

/-- `x mod 32`, which is `x[4:0]` (R9, R59): every rotation amount is reduced by it. -/
def mod32 (n : Word) : Word := BitVec.ofNat 32 (n.toNat % 32)

/-- `rotl32` (R60): `(x << s) | (x >> (32 - s))` with `s = n mod 32`. -/
def rotl32 (x n : Word) : Word :=
  shl32 x (n.toNat % 32) ||| shr32 x (32 - n.toNat % 32)

/-- `rotr32` (R61): `(x >> s) | (x << (32 - s))` with `s = n mod 32`. -/
def rotr32 (x n : Word) : Word :=
  shr32 x (n.toNat % 32) ||| shl32 x (32 - n.toNat % 32)

end Sys2Proof.Machine
end

