-- ==== Sys2Proof/Machine/BlockTransform.lean ====
section
/-! DEFINITION. The block transform and the ENCRYPT and DECRYPT commands (spec/42_block_transform.md R73 to R82). -/

namespace Sys2Proof.Machine

/-- The table word `S[2*i]` of round `i = r + 1` (R75, R79). -/
def roundKeyA (S : Table) (r : Fin 12) : Word := S[2 * (r.val + 1)]'(by omega)

/-- The table word `S[2*i + 1]` of round `i = r + 1` (R75, R79). -/
def roundKeyB (S : Table) (r : Fin 12) : Word := S[2 * (r.val + 1) + 1]'(by omega)

/-- Encrypt round `i = r + 1` (R75), in the order of R76: the second line uses the updated `A`. -/
def encryptRound (S : Table) (M : Block) (r : Fin 12) : Block :=
  let A := add32 (rotl32 (xor32 M.1 M.2) (mod32 M.2)) (roundKeyA S r)
  let B := add32 (rotl32 (xor32 M.2 A) (mod32 A)) (roundKeyB S r)
  (A, B)

/-- `encrypt(M, S)` (R75): pre-whitening, then the rounds 1 to 12. -/
def encryptBlock (M : Block) (S : Table) : Block :=
  (List.finRange 12).foldl (encryptRound S) (add32 M.1 S[0], add32 M.2 S[1])

/-- Decrypt round `i = r + 1` (R79), in the order of R80: the second line uses the updated `B`. -/
def decryptRound (S : Table) (r : Fin 12) (C : Block) : Block :=
  let B := xor32 (rotr32 (sub32 C.2 (roundKeyB S r)) (mod32 C.1)) C.1
  let A := xor32 (rotr32 (sub32 C.1 (roundKeyA S r)) (mod32 B)) B
  (A, B)

/-- `decrypt(C, S)` (R79): the rounds 12 down to 1, then the two subtractions. -/
def decryptBlock (C : Block) (S : Table) : Block :=
  let M := (List.finRange 12).foldr (decryptRound S) C
  (sub32 M.1 S[0], sub32 M.2 S[1])

/-- ENCRYPT, issue (R73). -/
def issueEncrypt (c : CoreState) : CoreState :=
  { c with pend := .encrypt (blockOperand c).1 (blockOperand c).2, lastop := 2 }

/-- DECRYPT, issue (R77). -/
def issueDecrypt (c : CoreState) : CoreState :=
  { c with pend := .decrypt (blockOperand c).1 (blockOperand c).2, lastop := 3 }

/-- The result of a transform goes to DOUT, and PEND to NONE, in one step (R74, R78). -/
def writeResult (M : Block) (c : CoreState) : CoreState := { c with dout := #v[M.1, M.2], pend := .none }

/-- ENCRYPT, completion (R74), with the table as it stands. -/
def completeEncrypt (m0 m1 : Word) (c : CoreState) : CoreState := writeResult (encryptBlock (m0, m1) c.S) c

/-- DECRYPT, completion (R78), with the table as it stands. -/
def completeDecrypt (c0 c1 : Word) (c : CoreState) : CoreState := writeResult (decryptBlock (c0, c1) c.S) c

/-- ENCRYPT (R73, R85): it needs the table. -/
def execEncrypt (s : State) : Host.Outcome State Fault Refusal := acceptCommand true issueEncrypt s

/-- DECRYPT (R77, R85): it needs the table. -/
def execDecrypt (s : State) : Host.Outcome State Fault Refusal := acceptCommand true issueDecrypt s

end Sys2Proof.Machine
end

