-- ==== Sys2Proof/Machine/KeySchedule.lean ====
section
/-! DEFINITION. The key-schedule expander and the EXPAND command (spec/41_key_schedule.md R64 to R72). -/

namespace Sys2Proof.Machine

/-- Step 1, seed (R67): `S[0] = P`, `S[i] = S[i-1] + Q`. -/
def seedWord : Nat → Word
  | 0 => Config.magicP
  | i + 1 => add32 (seedWord i) Config.magicQ

/-- The seeded table (R67). It does not depend on the key. -/
def seedTable : Table := Vector.ofFn fun i => seedWord i.val

/-- Step 2, one byte (R68): `L[x/4] <- (L[x/4] << 8) + zext_32(K[x])`. -/
def packByte (K : KeyBytes) (x : Fin 16) (L : KeyWords) : KeyWords :=
  L.set (x.val / 4) (add32 (shl32 (L[x.val / 4]'(by omega)) 8) ((K[x]).setWidth 32)) (by omega)

/-- Step 2, pack (R68): the bytes 15 down to 0, into `L[0..3] = 0`. -/
def packKey (K : KeyBytes) : KeyWords := (List.finRange 16).foldr (packByte K) (Vector.replicate 4 0)

/-- What the mixing works on (R66, R69): the table, the mixing array, the rolling variables and the two indices. -/
structure Mix where
  S : Table
  L : KeyWords
  A : Word
  B : Word
  i : Fin 26
  j : Fin 4
  deriving DecidableEq, Repr

/-- The next index modulo 26 (R69). -/
def nextI (i : Fin 26) : Fin 26 := if h : i.val + 1 < 26 then ⟨i.val + 1, h⟩ else 0

/-- The next index modulo 4 (R69). -/
def nextJ (j : Fin 4) : Fin 4 := if h : j.val + 1 < 4 then ⟨j.val + 1, h⟩ else 0

/-- One mixing iteration, in the order of R70: the first line writes `A` and `S[i]` from the old `A` and `B`, the
second writes `B` and `L[j]` from the new `A` and the old `B`, then the indices advance. -/
def mixStep (m : Mix) : Mix :=
  let A := rotl32 (add32 (add32 m.S[m.i] m.A) m.B) 3
  let B := rotl32 (add32 (add32 m.L[m.j] A) m.B) (mod32 (add32 A m.B))
  { S := m.S.set m.i A, L := m.L.set m.j B, A := A, B := B, i := nextI m.i, j := nextJ m.j }

/-- The state before the first mixing iteration: `A`, `B`, `i` and `j` start at 0 (R66, R69; the start of `A` and `B`
is the spec's decision D28). -/
def mixStart (K : KeyBytes) : Mix := { S := seedTable, L := packKey K, A := 0, B := 0, i := 0, j := 0 }

/-- `n` mixing iterations (R69). -/
def mixLoop : Nat → Mix → Mix
  | 0, m => m
  | n + 1, m => mixLoop n (mixStep m)

/-- `expand(K)` (R66): seed, pack, mix 78 times, and the table is the result (R71). -/
def expandKey (K : KeyBytes) : Table := (mixLoop Config.mixIterations (mixStart K)).S

/-- EXPAND, issue (R64). -/
def issueExpand (c : CoreState) : CoreState :=
  { c with pend := .expand (keySnapshot c.key), tv := false, lastop := 1 }

/-- EXPAND, completion (R65): all 26 words of the table, TV and PEND in one step. -/
def completeExpand (kb : KeyBytes) (c : CoreState) : CoreState :=
  { c with S := expandKey kb, tv := true, pend := .none }

/-- EXPAND (R64, R85): it needs no table. -/
def execExpand (s : State) : Host.Outcome State Fault Refusal := acceptCommand false issueExpand s

end Sys2Proof.Machine
end

