-- ==== Sys2Proof/Machine/Window.lean ====
section
/-! DEFINITION. The host's accesses to the register window (spec/20_memory.md R33 to R39) and the submission of a
command word (R85). -/

namespace Sys2Proof.Machine

/-- An access the core defines: 32 bits wide and aligned (R33). -/
def accessDefined (off : Offset) (width : Nat) : Bool := accessWf off width

/-- `MemRead(off, 4)` at an aligned offset (R38): the value, and the state with the draw counter moved on where the
value is a draw. The core does not change. -/
def memRead (off : Offset) (s : State) : Word × State :=
  match regAt off with
  | .key n => (s.core.key[n], s)
  | .din n => (s.core.din[n], s)
  | .dout n => if s.core.pend.transforming then draw32 s else (s.core.dout[n], s)
  | .cmd => (0, s)
  | .status => (s.core.statusWord, s)
  | .table i => if s.core.tv then (s.core.S[i], s) else draw32 s
  | .reserved => (0, s)

/-- A write of the word `w` to CMD (R85): BUSY_CMD before anything is decoded, ILLEGAL_CMD for a word that is no
command, otherwise the command. -/
def submitCommand (w : Word) (s : State) : Host.Outcome State Fault Refusal :=
  if s.core.busy then .next (raiseCmdError .busyCmd s)
  else
    match decode w with
    | .error _ => .next (raiseCmdError .illegalCmd s)
    | .ok i => exec i s

/-- `MemWrite(off, 4, v)` at an aligned offset (R39). Writes to DOUT, to `S` and to reserved offsets are ignored
(R36, R37). -/
def memWrite (off : Offset) (v : Word) (s : State) : Host.Outcome State Fault Refusal :=
  match regAt off with
  | .key n => .next (s.withCore (s.core.writeKey n v))
  | .din n => .next (s.withCore (s.core.writeDin n v))
  | .dout _ => .next s
  | .cmd => submitCommand v s
  | .status => .next (s.withCore (s.core.writeStatus v))
  | .table _ => .next s
  | .reserved => .next s

/-- A host read (R33, R38): an access the core does not define is `fault BusAccessError(off, width)` (R89). -/
def hostRead (off : Offset) (width : Nat) (s : State) : Host.Outcome State Fault Refusal :=
  if accessDefined off width then .next ((memRead off s).2.logRead off (memRead off s).1)
  else .fault (.busAccessError off width)

/-- A host write (R33, R39). -/
def hostWrite (off : Offset) (width : Nat) (v : Word) (s : State) : Host.Outcome State Fault Refusal :=
  if accessDefined off width then memWrite off v s
  else .fault (.busAccessError off width)

end Sys2Proof.Machine
end

