-- ==== Sys2Proof/Machine/Agents.lean ====
section
/-! DEFINITION. The agents of an execution (R42) and the step each of them takes: the host with its next access, the
core with its completion step (R65, R74, R78), the platform with a reset (R96). -/

namespace Sys2Proof.Machine

/-- Whose step is next. The schedule says so while it lasts. After it, a pending operation completes, and with none
pending the host goes on: one of the orders R42 allows, and a fair one (R108, log entry 1). -/
def whoseTurn (s : State) : Turn :=
  match s.sched with
  | t :: _ => t
  | [] => if s.core.busy then .core else .host

/-- The state with this step's turn taken off the schedule. -/
def takeTurn (s : State) : State := { s with sched := s.sched.tail }

/-- One poll of `WAIT` (R54): a read of STATUS; while its bit 0 is 1 the host comes back to the same line. `done` is
the state of the host program behind the loop. -/
def pollStatus (done : List HostOp) (s : State) : State :=
  let polled := (memRead (offsetOf .status) s).2.logRead (offsetOf .status) (memRead (offsetOf .status) s).1
  if (memRead (offsetOf .status) s).1.getLsbD 0 then polled else { polled with program := done }

/-- The host's step: its next access in program order (R42). A host that has performed its last access does nothing
(R108). -/
def hostTurn (s : State) : Host.Outcome State Fault Refusal :=
  match s.program with
  | [] => .next s
  | .read off width :: rest => hostRead off width { s with program := rest }
  | .write off width v :: rest => hostWrite off width v { s with program := rest }
  | .wait :: rest => .next (pollStatus rest s)

/-- The core's completion step, enabled exactly when an operation is pending (R65, R74, R78); a turn given to an idle
core changes nothing (R95). -/
def coreTurn (s : State) : State :=
  match s.core.pend with
  | .none => s
  | .expand kb => scrambleDatapath (s.withCore (completeExpand kb s.core))
  | .encrypt m0 m1 => scrambleDatapath (s.withCore (completeEncrypt m0 m1 s.core))
  | .decrypt c0 c1 => scrambleDatapath (s.withCore (completeDecrypt c0 c1 s.core))

/-- What a reset does to the core (R96): the storage of the table is unchanged, everything else takes its reset value.
The datapath working state is unspecified after it and gets its free value in `resetTurn`. -/
def CoreState.resetCore (c : CoreState) : CoreState :=
  { c with
    key := Vector.replicate 4 0
    din := Vector.replicate 2 0
    dout := Vector.replicate 2 0
    pend := .none
    tv := false
    err := false
    errcode := 0
    lastop := 0 }

/-- The platform asserts reset between two steps (R96). The host and its program go on (log entry 7). -/
def resetTurn (s : State) : State := scrambleDatapath (s.withCore s.core.resetCore)

end Sys2Proof.Machine
end

