-- ==== Sys2Proof/Machine/Step.lean ====
section
/-! DEFINITION. One step of an execution (R42), and the placing of a command word where the next step takes it. -/

namespace Sys2Proof.Machine

/-- One step: a host access, a completion step or a reset, each seeing the whole effect of every step before it
(R42). -/
def step (s : State) : Host.Outcome State Fault Refusal :=
  match whoseTurn s with
  | .host => hostTurn (takeTurn s)
  | .core => .next (coreTurn (takeTurn s))
  | .reset => .next (resetTurn (takeTurn s))

/-- The state in which the very next step is the host's write of the command word to CMD: the core fetches nothing
(R45), so this write, put before what the host has to do, is how a command reaches it (log entry 4). -/
def State.withFetchWord (s : State) (nbits w : Nat) : State :=
  { s with
    program := .write (offsetOf .cmd) 4 (BitVec.ofNat 32 (w % 2 ^ nbits)) :: s.program
    sched := .host :: s.sched }

end Sys2Proof.Machine
end

