-- ==== Sys2Proof/Machine/HostNotation.lean ====
section
/-! DEFINITION. The host-program notation: what each pseudo-instruction expands to (R53, R54). -/

namespace Sys2Proof.Machine

/-- `WR <reg>, <imm32>` (R53). -/
def wr (r : WindowReg) (v : Word) : HostOp := .write (offsetOf r) 4 v

/-- `RD <reg>` (R53). -/
def rd (r : WindowReg) : HostOp := .read (offsetOf r) 4

/-- The word that SETKEY writes to `KEYn`: `k(4n+3) || k(4n+2) || k(4n+1) || k(4n)` (R54). -/
def keyWord (k : KeyBytes) (n : Fin 4) : Word :=
  (k[4 * n.val + 3]'(by omega) ++ k[4 * n.val + 2]'(by omega) ++ k[4 * n.val + 1]'(by omega)
    ++ k[4 * n.val]'(by omega) : BitVec 32)

/-- The expansion of a pseudo-instruction (R54). `WAIT` is the host's own loop and stays one line. -/
def pseudoLines : Pseudo → List HostOp
  | .expand => [wr .cmd (encode .expand)]
  | .encrypt => [wr .cmd (encode .encrypt)]
  | .decrypt => [wr .cmd (encode .decrypt)]
  | .setKey k => [wr (.key 0) (keyWord k 0), wr (.key 1) (keyWord k 1), wr (.key 2) (keyWord k 2), wr (.key 3) (keyWord k 3)]
  | .setBlk m0 m1 => [wr (.din 0) m0, wr (.din 1) m1]
  | .getBlk => [rd (.dout 0), rd (.dout 1)]
  | .wait => [.wait]
  | .clrErr => [wr .status 0x00000008]

end Sys2Proof.Machine
end

