-- ==== Sys2Proof/Safety.lean ====
section
/-! DEFINITION. What counts as a good state and a safe run: the invariant of the core's status, the end of a run
(spec/70_reset_and_hazards.md R108), and the host programs that cannot fault (R33, R89). -/

namespace Sys2Proof.Machine

/-- The invariant of the core: what its status fields say about each other, about the pending operation and about the
table. -/
structure StatusInv (c : CoreState) : Prop where
  /-- "While ERR = 0, ERRCODE is 0" (R22). -/
  codeWithoutError : c.err = false → c.errcode = 0
  /-- A recorded error has one of the three codes; 4 to 15 are never produced (R84, I9). -/
  codeOfError : c.err = true → c.errcode = 1 ∨ c.errcode = 2 ∨ c.errcode = 3
  /-- LASTOP is 0, or the code of an accepted command (R23). -/
  lastopCode : c.lastop = 0 ∨ c.lastop = 1 ∨ c.lastop = 2 ∨ c.lastop = 3
  /-- Before any command is accepted nothing is pending and there is no table (R23, R98). -/
  nothingAccepted : c.lastop = 0 → c.pend = .none ∧ c.tv = false
  /-- TV = 0 while EXPAND is pending (R20), and LASTOP names it (R23). -/
  expandPending : ∀ kb, c.pend = .expand kb → c.tv = false ∧ c.lastop = 1
  /-- ENCRYPT is accepted only with TV = 1 (R73), and LASTOP names it (R23). -/
  encryptPending : ∀ m0 m1, c.pend = .encrypt m0 m1 → c.tv = true ∧ c.lastop = 2
  /-- DECRYPT is accepted only with TV = 1 (R77), and LASTOP names it (R23). -/
  decryptPending : ∀ c0 c1, c.pend = .decrypt c0 c1 → c.tv = true ∧ c.lastop = 3
  /-- TV = 1 only when the table holds the result of an expansion (R20). -/
  tableExpanded : c.tv = true → ∃ kb, c.S = expandKey kb

/-- `n` steps of the machine from `s`, stopping at the first fault (Host.Core.run, at the model's own types). -/
def runSteps (n : Nat) (s : State) : Host.Outcome State Fault Refusal := Sys2Proof.core.run n s

/-- A run has ended when the host program has performed its last access (R108). -/
def State.ended (s : State) : Prop := s.program = []

/-- A run is finished when it has ended with no operation pending (R108). -/
def State.finished (s : State) : Prop := s.ended ∧ s.core.pend = .none

/-- Every access the host has left is one the core defines (R33). -/
def State.programDefined (s : State) : Prop := ∀ op ∈ s.program, op.wf = true

/-- A run is safe when no number of steps of it faults. -/
def State.Safe (s : State) : Prop := ∀ n, ∃ t, runSteps n s = .next t

end Sys2Proof.Machine
end

