-- ==== Sys2Proof/Certificates/Slice0/Obligations.lean ====
section
/-! DEFINITION. The statements for the provers. Before them stand a transcription of the cipher's pseudocode, written
from R66, R75 and R79 on its own (natural-number indices, functions for arrays, the library's addition and rotation),
which the refinement statements compare the model with, and the number of 1 bits of a word (R62). -/

namespace Sys2Proof.Pseudocode

/-- `f[k] <- v`. -/
def setAt (f : Nat → Word) (k : Nat) (v : Word) : Nat → Word := fun n => if n = k then v else f n

/-- The variables of step 3 of R66. -/
structure Vars where
  S : Nat → Word
  L : Nat → Word
  A : Word
  B : Word
  i : Nat
  j : Nat

/-- Step 1 of R66: `S[0] <- P; for i = 1..25: S[i] <- S[i-1] + Q`. -/
def seed : Nat → Word :=
  (List.range 25).foldl (fun S n => setAt S (n + 1) (S n + 0x9E3779B9#32)) (setAt (fun _ => 0) 0 0xB7E15163#32)

/-- Step 2 of R66: `for x = 15..0: L[x/4] <- (L[x/4] << 8) + zext_32(K[x])`. -/
def pack (K : Nat → Byte) : Nat → Word :=
  (List.range 16).foldr (fun x L => setAt L (x / 4) (L (x / 4) <<< 8 + (K x).setWidth 32)) (fun _ => 0)

/-- The body of the loop of step 3 of R66. -/
def mixBody (v : Vars) : Vars :=
  let A := (v.S v.i + v.A + v.B).rotateLeft 3
  let B := (v.L v.j + A + v.B).rotateLeft ((A + v.B).toNat % 32)
  { S := setAt v.S v.i A, L := setAt v.L v.j B, A := A, B := B, i := (v.i + 1) % 26, j := (v.j + 1) % 4 }

/-- `expand(K)` of R66. -/
def expand (K : Nat → Byte) : Nat → Word :=
  ((List.range 78).foldl (fun v _ => mixBody v) { S := seed, L := pack K, A := 0, B := 0, i := 0, j := 0 }).S

/-- `encrypt(M, S)` of R75. -/
def encrypt (M : Word × Word) (S : Nat → Word) : Word × Word :=
  (List.range' 1 12).foldl
    (fun M i =>
      let A := (M.1 ^^^ M.2).rotateLeft (M.2.toNat % 32) + S (2 * i)
      let B := (M.2 ^^^ A).rotateLeft (A.toNat % 32) + S (2 * i + 1)
      (A, B))
    (M.1 + S 0, M.2 + S 1)

/-- `decrypt(C, S)` of R79. -/
def decrypt (C : Word × Word) (S : Nat → Word) : Word × Word :=
  let M := (List.range' 1 12).foldr
    (fun i C =>
      let B := (C.2 - S (2 * i + 1)).rotateRight (C.1.toNat % 32) ^^^ C.1
      let A := (C.1 - S (2 * i)).rotateRight (B.toNat % 32) ^^^ B
      (A, B))
    C
  (M.1 - S 0, M.2 - S 1)

/-- A table as a function of its index. -/
def ofTable (S : Table) : Nat → Word := fun k => S[k]?.getD 0

/-- A key as a function of its byte index. -/
def ofKey (K : KeyBytes) : Nat → Byte := fun x => K[x]?.getD 0

end Sys2Proof.Pseudocode

namespace Sys2Proof

/-- The number of 1 bits of a word (R62). -/
def bitCount (w : Word) : Nat := (Finset.univ.filter fun k : Fin 32 => w.getLsbD k.val = true).card

end Sys2Proof

open Sys2Proof Sys2Proof.Machine

/-! ### Encoding -/

/-- R48, with each word written out bit by bit, and R51's neighbours of them (0x0, 0x4, RSV ≠ 0). -/
def Obligations.WrittenCommandWordsDecode : Prop :=
  decode 0b00000000000000000000000000000001#32 = .ok .expand ∧
  decode 0b00000000000000000000000000000010#32 = .ok .encrypt ∧
  decode 0b00000000000000000000000000000011#32 = .ok .decrypt ∧
  encode .expand = 0x00000001#32 ∧ encode .encrypt = 0x00000002#32 ∧ encode .decrypt = 0x00000003#32 ∧
  decode 0b00000000000000000000000000000000#32 = .error .unassignedOpcode ∧
  decode 0b00000000000000000000000000000100#32 = .error .unassignedOpcode ∧
  decode 0b00000000000000000000000000010001#32 = .error .reservedBitsSet ∧
  decode 0b10000000000000000000000000000001#32 = .error .reservedBitsSet

/-- R49: the decoder's clauses on every word; three words are commands and decode and encode agree on them; the words
the decoder takes are the well-formed ones. -/
def Obligations.DecodeAndEncodeAgreeOnEveryWord : Prop :=
  (∀ (w : Word) (i : Instr), decode w = .ok i ↔ w = encode i) ∧
  (∀ w : Word, w >>> 4 ≠ 0 → ∃ e, decode w = .error e) ∧
  (∀ w : Word, (∃ e, decode w = .error e) ↔ w ≠ 0x00000001#32 ∧ w ≠ 0x00000002#32 ∧ w ≠ 0x00000003#32) ∧
  (∀ w : Word, commandWordWf w = true ↔ ∃ i, decode w = .ok i)

/-! ### The step -/

/-- A host write of a command word to CMD runs the decoded command, on the state whose turn and line are taken (R39,
R85). Nothing is assumed of the core: `exec` itself rejects the command where R85 does. -/
def Obligations.StepRunsTheDecodedCommand : Prop :=
  ∀ (s : State) (w : Word) (i : Instr) (rest : List HostOp),
    whoseTurn s = .host → s.program = .write 0x20#8 4 w :: rest → decode w = .ok i →
    step s = exec i { s with program := rest, sched := s.sched.tail }

/-- The model's own placing of a command word (log entry 4): from every state, the next step after it is the command on
that state. -/
def Obligations.PlacedCommandWordRunsNext : Prop :=
  ∀ (s : State) (i : Instr), step (s.withFetchWord 32 (encode i).toNat) = exec i s

/-- The model's own schedule (log entry 1): its first entry says whose turn it is; after it, a pending operation
completes before the host goes on. -/
def Obligations.ScheduleDecidesTheTurn : Prop :=
  (∀ (s : State) (t : Turn) (ts : List Turn), s.sched = t :: ts → whoseTurn s = t) ∧
  (∀ s : State, s.sched = [] → s.core.pend ≠ .none → whoseTurn s = .core) ∧
  (∀ s : State, s.sched = [] → s.core.pend = .none → whoseTurn s = .host)

/-- The model's own turns with nothing to do (log entry 1): a turn given to a core with nothing pending, and a turn given
to a host that has performed its last access, changes only the schedule. The spec has no such step. -/
def Obligations.TurnsWithNothingToDoOnlyPass : Prop :=
  (∀ s : State, whoseTurn s = .core → s.core.pend = .none → step s = .next { s with sched := s.sched.tail }) ∧
  (∀ s : State, whoseTurn s = .host → s.program = [] → step s = .next { s with sched := s.sched.tail })

/-! ### Commands and their errors -/

/-- R85, each line of its pseudocode, in its priority order. -/
def Obligations.CommandAcceptance : Prop :=
  ∀ (s : State) (w : Word) (rest : List HostOp),
    whoseTurn s = .host → s.program = .write 0x20#8 4 w :: rest →
    let b : State := { s with program := rest, sched := s.sched.tail }
    (s.core.pend ≠ .none → step s = .next { b with core := s.core.raiseCmdError .busyCmd }) ∧
    (s.core.pend = .none → (∃ e, decode w = .error e) →
      step s = .next { b with core := s.core.raiseCmdError .illegalCmd }) ∧
    (s.core.pend = .none → decode w = .ok .encrypt → s.core.tv = false →
      step s = .next { b with core := s.core.raiseCmdError .noTable }) ∧
    (s.core.pend = .none → decode w = .ok .encrypt → s.core.tv = true →
      step s = .next { b with core := issueEncrypt s.core }) ∧
    (s.core.pend = .none → decode w = .ok .decrypt → s.core.tv = false →
      step s = .next { b with core := s.core.raiseCmdError .noTable }) ∧
    (s.core.pend = .none → decode w = .ok .decrypt → s.core.tv = true →
      step s = .next { b with core := issueDecrypt s.core }) ∧
    (s.core.pend = .none → decode w = .ok .expand → step s = .next { b with core := issueExpand s.core })

/-- R86 and the codes of R84: the first error is recorded and kept, and a core with ERR = 1 accepts commands by the same
rule. -/
def Obligations.FirstErrorIsKept : Prop :=
  (CmdError.illegalCmd.code = 1 ∧ CmdError.busyCmd.code = 2 ∧ CmdError.noTable.code = 3) ∧
  (∀ (c : CoreState) (e : CmdError), c.err = false → c.raiseCmdError e = { c with err := true, errcode := e.code }) ∧
  (∀ (c : CoreState) (e : CmdError), c.err = true → c.raiseCmdError e = c) ∧
  (∀ (s : State) (i : Instr), s.core.err = true → s.core.pend = .none → (i ≠ .expand → s.core.tv = true) →
    ∃ t, exec i s = .next t ∧ t.core.pend ≠ .none ∧ t.core.lastop = opcodeOf i ∧ t.core.err = true ∧
      t.core.errcode = s.core.errcode)

/-- R87: a rejected CMD write changes nothing but ERR and ERRCODE, and a pending operation then completes as it would
have without it. -/
def Obligations.RejectedCommandChangesOnlyTheError : Prop :=
  ∀ (s : State) (w : Word) (rest : List HostOp),
    whoseTurn s = .host → s.program = .write 0x20#8 4 w :: rest →
    (s.core.pend ≠ .none ∨ (∃ e, decode w = .error e) ∨
      ((decode w = .ok .encrypt ∨ decode w = .ok .decrypt) ∧ s.core.tv = false)) →
    ∃ t, step s = .next t ∧
      t = { s with
        program := rest, sched := s.sched.tail,
        core := { s.core with err := true, errcode := t.core.errcode } } ∧
      (s.core.err = true → t.core.errcode = s.core.errcode) ∧
      (coreTurn t).core =
        { (coreTurn s).core with err := t.core.err, errcode := t.core.errcode }

/-- R64: the issue of EXPAND on an idle core, with the snapshot byte by byte, and its one error. -/
def Obligations.ExpandIssue : Prop :=
  encode .expand = 0x00000001#32 ∧
  (∀ s : State, s.core.pend = .none →
    ∃ kb : KeyBytes,
      (∀ (n b : Nat) (hn : n < 4) (hb : b < 4), kb[4 * n + b] = (s.core.key[n] >>> (8 * b)).setWidth 8) ∧
      exec .expand s = .next { s with core := { s.core with pend := .expand kb, tv := false, lastop := 1 } }) ∧
  (∀ s : State, s.core.pend ≠ .none →
    exec .expand s = .next { s with core := s.core.raiseCmdError .busyCmd })

/-- R73: the issue of ENCRYPT, and its two errors. -/
def Obligations.EncryptIssue : Prop :=
  encode .encrypt = 0x00000002#32 ∧
  (∀ s : State, s.core.pend = .none → s.core.tv = true →
    exec .encrypt s =
      .next { s with core := { s.core with pend := .encrypt s.core.din[0] s.core.din[1], lastop := 2 } }) ∧
  (∀ s : State, s.core.pend ≠ .none →
    exec .encrypt s = .next { s with core := s.core.raiseCmdError .busyCmd }) ∧
  (∀ s : State, s.core.pend = .none → s.core.tv = false →
    exec .encrypt s = .next { s with core := s.core.raiseCmdError .noTable })

/-- R77: the issue of DECRYPT, and its two errors. -/
def Obligations.DecryptIssue : Prop :=
  encode .decrypt = 0x00000003#32 ∧
  (∀ s : State, s.core.pend = .none → s.core.tv = true →
    exec .decrypt s =
      .next { s with core := { s.core with pend := .decrypt s.core.din[0] s.core.din[1], lastop := 3 } }) ∧
  (∀ s : State, s.core.pend ≠ .none →
    exec .decrypt s = .next { s with core := s.core.raiseCmdError .busyCmd }) ∧
  (∀ s : State, s.core.pend = .none → s.core.tv = false →
    exec .decrypt s = .next { s with core := s.core.raiseCmdError .noTable })

/-- The frame of the three commands, in every state: KEY, DIN, DOUT, the table and the host are as before; the error
fields change only where the command is rejected, the other status fields only where it is accepted. A command stores
nothing to any memory (R31: there is none). -/
def Obligations.CommandFrame : Prop :=
  ∀ (i : Instr) (s t : State), exec i s = .next t →
    t.core.key = s.core.key ∧ t.core.din = s.core.din ∧ t.core.dout = s.core.dout ∧ t.core.S = s.core.S ∧
    t.core.datapath = s.core.datapath ∧ t.program = s.program ∧ t.sched = s.sched ∧ t.readLog = s.readLog ∧
    t.draws = s.draws ∧
    ((t.core.err = s.core.err ∧ t.core.errcode = s.core.errcode ∧ t.core.pend ≠ .none ∧
        t.core.lastop = opcodeOf i ∧ t.core.tv = (s.core.tv && i != .expand)) ∨
      (t.core.err = true ∧ (s.core.err = true → t.core.errcode = s.core.errcode) ∧ t.core.pend = s.core.pend ∧ t.core.lastop = s.core.lastop ∧ t.core.tv = s.core.tv))

/-! ### Completion -/

/-- R65: the completion of EXPAND. Of the datapath working state and the model's draw counter nothing is said (R28). -/
def Obligations.ExpandCompletion : Prop :=
  ∀ (s : State) (kb : KeyBytes), whoseTurn s = .core → s.core.pend = .expand kb →
    ∃ d n, step s = .next { s with
      core := { s.core with S := expandKey kb, tv := true, pend := .none, datapath := d },
      sched := s.sched.tail, draws := n }

/-- R74: the completion of ENCRYPT. -/
def Obligations.EncryptCompletion : Prop :=
  ∀ (s : State) (m0 m1 : Word), whoseTurn s = .core → s.core.pend = .encrypt m0 m1 →
    ∃ d n, step s = .next { s with
      core := { s.core with
        dout := #v[(encryptBlock (m0, m1) s.core.S).1, (encryptBlock (m0, m1) s.core.S).2]
        pend := .none, datapath := d },
      sched := s.sched.tail, draws := n }

/-- R78: the completion of DECRYPT. -/
def Obligations.DecryptCompletion : Prop :=
  ∀ (s : State) (c0 c1 : Word), whoseTurn s = .core → s.core.pend = .decrypt c0 c1 →
    ∃ d n, step s = .next { s with
      core := { s.core with
        dout := #v[(decryptBlock (c0, c1) s.core.S).1, (decryptBlock (c0, c1) s.core.S).2]
        pend := .none, datapath := d },
      sched := s.sched.tail, draws := n }

/-! ### Word primitives -/

/-- R55 and R56. -/
def Obligations.WraparoundAddAndSubtract : Prop :=
  (∀ a b : Word, (add32 a b).toNat = (a.toNat + b.toNat) % 2 ^ 32) ∧
  (∀ a b : Word, add32 a b = add32 b a) ∧
  (∀ a b c : Word, add32 (add32 a b) c = add32 a (add32 b c)) ∧
  add32 0xFFFFFFFF#32 1#32 = 0 ∧ add32 0xB7E15163#32 0x9E3779B9#32 = 0x5618CB1C#32 ∧
  (∀ a b : Word, (sub32 a b).toNat = (a.toNat + 2 ^ 32 - b.toNat) % 2 ^ 32) ∧
  (∀ a b : Word, sub32 (add32 a b) b = a) ∧
  sub32 0 1#32 = 0xFFFFFFFF#32 ∧ sub32 0x5618CB1C#32 0x9E3779B9#32 = 0xB7E15163#32

/-- R57 and R58. -/
def Obligations.ExclusiveOrAndShifts : Prop :=
  (∀ (a b : Word) (k : Nat), k < 32 → (xor32 a b).getLsbD k = (a.getLsbD k != b.getLsbD k)) ∧
  (∀ a : Word, xor32 a a = 0) ∧ (∀ a : Word, xor32 a 0 = a) ∧ (∀ a b : Word, xor32 (xor32 a b) b = a) ∧
  xor32 0xFFFFFFFF#32 0x12345678#32 = 0xEDCBA987#32 ∧
  (∀ (x : Word) (n : Nat), (shl32 x n).toNat = x.toNat * 2 ^ n % 2 ^ 32) ∧
  (∀ (x : Word) (n : Nat), (shr32 x n).toNat = x.toNat / 2 ^ n) ∧
  (∀ (x : Word) (n : Nat), 32 ≤ n → shl32 x n = 0 ∧ shr32 x n = 0)

/-- R59, R60 and R61: each bit of a rotation, for every amount, and the corner cases. -/
def Obligations.RotationMovesEveryBit : Prop :=
  (∀ (x n : Word) (k : Nat), k < 32 → (rotl32 x n).getLsbD k = x.getLsbD ((k + 32 - n.toNat % 32) % 32)) ∧
  (∀ (x n : Word) (k : Nat), k < 32 → (rotr32 x n).getLsbD k = x.getLsbD ((k + n.toNat % 32) % 32)) ∧
  (∀ x n : Word, rotl32 x n = shl32 x (n.toNat % 32) ||| shr32 x (32 - n.toNat % 32)) ∧
  (∀ x n : Word, rotr32 x n = shr32 x (n.toNat % 32) ||| shl32 x (32 - n.toNat % 32)) ∧
  (∀ n : Word, (mod32 n).toNat = n.toNat % 32 ∧ mod32 n = (n.extractLsb' 0 5).setWidth 32) ∧
  (∀ x n : Word, rotl32 x n = rotl32 x (mod32 n) ∧ rotr32 x n = rotr32 x (mod32 n)) ∧
  (∀ x : Word, rotl32 x 0 = x ∧ rotl32 x 32 = x ∧ rotl32 x 33 = rotl32 x 1 ∧ rotr32 x 0 = x ∧ rotr32 x 32 = x) ∧
  (∀ n : Word, rotl32 0 n = 0 ∧ rotl32 0xFFFFFFFF#32 n = 0xFFFFFFFF#32) ∧
  rotl32 0xB7E15163#32 3 = 0xBF0A8B1D#32 ∧ rotr32 0x12345678#32 4 = 0x81234567#32 ∧ rotr32 1 31 = 2

/-- R62. -/
def Obligations.RotationLaws : Prop :=
  (∀ x n : Word, rotr32 (rotl32 x n) n = x ∧ rotl32 (rotr32 x n) n = x) ∧
  (∀ x n : Word, rotr32 x n = rotl32 x (BitVec.ofNat 32 ((32 - n.toNat % 32) % 32))) ∧
  (∀ x n m : Word, rotl32 (rotl32 x n) m = rotl32 x (BitVec.ofNat 32 ((n.toNat % 32 + m.toNat % 32) % 32))) ∧
  (∀ x n : Word, bitCount (rotl32 x n) = bitCount x ∧ bitCount (rotr32 x n) = bitCount x)

/-! ### Key schedule -/

/-- R67: the seeded table, by its recurrence and in closed form. -/
def Obligations.SeededTable : Prop :=
  seedTable[0] = 0xB7E15163#32 ∧
  (∀ (i : Nat) (h : i < 25), seedTable[i + 1] = add32 seedTable[i] 0x9E3779B9#32) ∧
  (∀ (i : Nat) (h : i < 26), seedTable[i].toNat = (0xB7E15163 + i * 0x9E3779B9) % 2 ^ 32)

/-- R68: packing is little-endian, whatever the array held before; and KEYn is the packed word (R14). -/
def Obligations.KeyPackingIsLittleEndian : Prop :=
  (∀ (K : KeyBytes) (n : Nat) (h : n < 4),
    (packKey K)[n] = (K[4 * n]).setWidth 32 ||| (K[4 * n + 1]).setWidth 32 <<< 8 |||
      (K[4 * n + 2]).setWidth 32 <<< 16 ||| (K[4 * n + 3]).setWidth 32 <<< 24) ∧
  (∀ (K : KeyBytes) (L : KeyWords), (List.finRange 16).foldr (packByte K) L = packKey K) ∧
  (∀ key : KeyWords, packKey (keySnapshot key) = key)

/-- R69 and R70: the start and the order of the mixing, the course of its indices, and how often each entry is
rewritten. -/
def Obligations.MixingOrderAndIndices : Prop :=
  (∀ K : KeyBytes, (mixStart K).A = 0 ∧ (mixStart K).B = 0 ∧ (mixStart K).S = seedTable ∧
    (mixStart K).L = packKey K) ∧
  (∀ (K : KeyBytes) (n : Nat), (mixLoop n (mixStart K)).i.val = n % 26 ∧ (mixLoop n (mixStart K)).j.val = n % 4) ∧
  (∀ (K : KeyBytes) (n : Nat),
    let m := mixLoop n (mixStart K)
    let m' := mixLoop (n + 1) (mixStart K)
    m'.A = rotl32 (add32 (add32 m.S[m.i] m.A) m.B) 3 ∧ m'.S = m.S.set m.i m'.A ∧
    m'.B = rotl32 (add32 (add32 m.L[m.j] m'.A) m.B) (mod32 (add32 m'.A m.B)) ∧ m'.L = m.L.set m.j m'.B) ∧
  (∀ K : KeyBytes, expandKey K = (mixLoop 78 (mixStart K)).S) ∧
  (∀ K : KeyBytes, (mixLoop 78 (mixStart K)).i.val = 0 ∧ (mixLoop 78 (mixStart K)).j.val = 2) ∧
  (∀ i : Fin 26, ((List.range 78).filter fun k => k % 26 = i.val).length = 3) ∧
  (∀ j : Fin 4, ((List.range 78).filter fun k => k % 4 = j.val).length = if j.val < 2 then 20 else 19)

/-- R66: the model's expansion is the pseudocode's, for every key. -/
def Obligations.ExpansionRefinesThePseudocode : Prop :=
  ∀ (K : KeyBytes) (k : Nat) (h : k < 26), (expandKey K)[k] = Pseudocode.expand (Pseudocode.ofKey K) k

/-! ### Block transform -/

/-- R75, R76: the model's encryption is the pseudocode's, for every block and every table. -/
def Obligations.EncryptionRefinesThePseudocode : Prop :=
  ∀ (M : Block) (S : Table), encryptBlock M S = Pseudocode.encrypt M (Pseudocode.ofTable S)

/-- R79, R80: the model's decryption is the pseudocode's, for every block and every table. -/
def Obligations.DecryptionRefinesThePseudocode : Prop :=
  ∀ (C : Block) (S : Table), decryptBlock C S = Pseudocode.decrypt C (Pseudocode.ofTable S)

/-- R81: each transform undoes the other, for every table; so both are bijections; and so do the completions of the two
commands with one table. -/
def Obligations.DecryptInvertsEncrypt : Prop :=
  (∀ (M : Block) (S : Table), decryptBlock (encryptBlock M S) S = M) ∧
  (∀ (C : Block) (S : Table), encryptBlock (decryptBlock C S) S = C) ∧
  (∀ S : Table, Function.Bijective (fun M => encryptBlock M S) ∧ Function.Bijective (fun C => decryptBlock C S)) ∧
  (∀ (s t u v : State) (m0 m1 : Word),
    whoseTurn s = .core → s.core.pend = .encrypt m0 m1 → step s = .next t →
    whoseTurn u = .core → u.core.pend = .decrypt t.core.dout[0] t.core.dout[1] → u.core.S = t.core.S →
    step u = .next v → v.core.dout = #v[m0, m1])

/-! ### The register window -/

/-- R38: what a host read of each offset answers, and that it changes nothing in the core. A value that is not ready is
the draw of its own counter, of which nothing is known. -/
def Obligations.HostReadAnswers : Prop :=
  ∀ (s : State) (off : Offset) (rest : List HostOp),
    whoseTurn s = .host → s.program = .read off 4 :: rest → off.toNat % 4 = 0 →
    ∃ v n, step s = .next { s with
        program := rest, sched := s.sched.tail, readLog := { off := off, value := v } :: s.readLog, draws := n } ∧
      (∀ (k : Nat) (h : k < 4), off.toNat = 4 * k → v = s.core.key[k] ∧ n = s.draws) ∧
      (∀ (k : Nat) (h : k < 2), off.toNat = 0x10 + 4 * k → v = s.core.din[k] ∧ n = s.draws) ∧
      (∀ (k : Nat) (h : k < 2), off.toNat = 0x18 + 4 * k →
        ((∀ m0 m1, s.core.pend ≠ .encrypt m0 m1) ∧ (∀ c0 c1, s.core.pend ≠ .decrypt c0 c1) →
          v = s.core.dout[k] ∧ n = s.draws) ∧
        ((∃ m0 m1, s.core.pend = .encrypt m0 m1 ∨ s.core.pend = .decrypt m0 m1) →
          v = Config.draw32 s.draws ∧ n = s.draws + 1)) ∧
      (off.toNat = 0x20 → v = 0 ∧ n = s.draws) ∧
      (off.toNat = 0x24 → v = s.core.statusWord ∧ n = s.draws) ∧
      (∀ (i : Nat) (h : i < 26), off.toNat = 0x40 + 4 * i →
        (s.core.tv = true → v = s.core.S[i] ∧ n = s.draws) ∧
        (s.core.tv = false → v = Config.draw32 s.draws ∧ n = s.draws + 1)) ∧
      (0x28 ≤ off.toNat ∧ off.toNat < 0x40 ∨ 0xA8 ≤ off.toNat → v = 0 ∧ n = s.draws)

/-- R39 (with R36, R37): what a host write to each offset does, and that it changes nothing else. -/
def Obligations.HostWriteEffects : Prop :=
  ∀ (s : State) (off : Offset) (v : Word) (rest : List HostOp),
    whoseTurn s = .host → s.program = .write off 4 v :: rest → off.toNat % 4 = 0 →
    let b : State := { s with program := rest, sched := s.sched.tail }
    (∀ (k : Nat) (h : k < 4), off.toNat = 4 * k →
      step s = .next { b with core := { s.core with key := s.core.key.set k v } }) ∧
    (∀ (k : Nat) (h : k < 2), off.toNat = 0x10 + 4 * k →
      step s = .next { b with core := { s.core with din := s.core.din.set k v } }) ∧
    (off.toNat = 0x18 ∨ off.toNat = 0x1C → step s = .next b) ∧
    (off.toNat = 0x20 → step s = submitCommand v b) ∧
    (off.toNat = 0x24 → step s = .next { b with core := s.core.writeStatus v }) ∧
    (0x40 ≤ off.toNat ∧ off.toNat < 0xA8 → step s = .next b) ∧
    (0x28 ≤ off.toNat ∧ off.toNat < 0x40 ∨ 0xA8 ≤ off.toNat → step s = .next b)

/-- R33, R89: a step faults exactly where the host makes an access that is not 32 bits wide or not aligned, and the
fault names that access. -/
def Obligations.OnlyUndefinedAccessesFault : Prop :=
  ∀ (s : State) (r : Fault), step s = .fault r ↔
    whoseTurn s = .host ∧ ∃ (off : Offset) (width : Nat) (rest : List HostOp),
      (s.program = .read off width :: rest ∨ ∃ v, s.program = .write off width v :: rest) ∧
      (width ≠ 4 ∨ off.toNat % 4 ≠ 0) ∧ r = .busAccessError off width

/-- R40: a read changes no state of the core; a write to KEY, DIN or STATUS that is repeated leaves the core as the
first one did; a CMD write repeated while BUSY = 1 is recorded as an error. -/
def Obligations.RepeatedAccesses : Prop :=
  (∀ (s t : State) (off : Offset) (width : Nat) (rest : List HostOp), whoseTurn s = .host →
    s.program = .read off width :: rest → step s = .next t → t.core = s.core) ∧
  (∀ (s t u : State) (off : Offset) (v : Word) (rest rest' : List HostOp),
    whoseTurn s = .host → s.program = .write off 4 v :: rest →
    off.toNat < 0x18 ∨ off.toNat = 0x24 → step s = .next t →
    u.core = t.core → whoseTurn u = .host → u.program = .write off 4 v :: rest' →
    ∃ u', step u = .next u' ∧ u'.core = t.core) ∧
  (∀ (s t u : State) (w : Word) (i : Instr) (rest rest' : List HostOp),
    whoseTurn s = .host → s.program = .write 0x20#8 4 w :: rest → decode w = .ok i →
    s.core.pend = .none → (i ≠ .expand → s.core.tv = true) → step s = .next t →
    u.core = t.core → whoseTurn u = .host → u.program = .write 0x20#8 4 w :: rest' →
    ∃ u', step u = .next u' ∧ u'.core = t.core.raiseCmdError .busyCmd)

/-- R18, R24: every bit of STATUS as it reads, the value after reset, and that a write to it reaches no field but ERR and
ERRCODE. -/
def Obligations.StatusLayout : Prop :=
  State.reset.core.statusWord = 0x00000000#32 ∧
  (∀ (c : CoreState) (v : Word),
    c.writeStatus v = { c with err := (c.writeStatus v).err, errcode := (c.writeStatus v).errcode }) ∧
  ∀ c : CoreState,
    c.statusWord.getLsbD 0 = decide (c.pend ≠ .none) ∧
    c.statusWord.getLsbD 1 = c.tv ∧
    c.statusWord.getLsbD 2 = false ∧
    c.statusWord.getLsbD 3 = c.err ∧
    c.statusWord.extractLsb' 4 4 = c.errcode ∧
    c.statusWord.extractLsb' 8 4 = c.lastop ∧
    c.statusWord.extractLsb' 12 20 = 0

/-- R25: a write to STATUS clears ERR and ERRCODE where bit 3 is 1, and does nothing else, whatever the other bits and
whatever is pending. -/
def Obligations.StatusWriteClearsTheError : Prop :=
  ∀ (s : State) (v : Word) (rest : List HostOp),
    whoseTurn s = .host → s.program = .write 0x24#8 4 v :: rest →
    (v.getLsbD 3 = true → step s = .next { s with
      program := rest, sched := s.sched.tail, core := { s.core with err := false, errcode := 0 } }) ∧
    (v.getLsbD 3 = false → step s = .next { s with program := rest, sched := s.sched.tail })

/-- R32: the offset of each named register, and the register at each named offset. -/
def Obligations.RegisterMap : Prop :=
  (∀ n : Fin 4, (offsetOf (.key n)).toNat = 4 * n.val) ∧
  (∀ n : Fin 2, (offsetOf (.din n)).toNat = 0x10 + 4 * n.val ∧ (offsetOf (.dout n)).toNat = 0x18 + 4 * n.val) ∧
  offsetOf .cmd = 0x20 ∧ offsetOf .status = 0x24 ∧
  (∀ i : Fin 26, (offsetOf (.table i)).toNat = 0x40 + 4 * i.val) ∧
  (∀ r : WindowReg, r ≠ .reserved → regAt (offsetOf r) = r) ∧
  (∀ off : Offset, off.toNat % 4 = 0 → (regAt off = .reserved ↔
    (0x28 ≤ off.toNat ∧ off.toNat ≤ 0x3C) ∨ 0xA8 ≤ off.toNat))

/-- R31: the window is the 256 addresses from BASE_ADDR on, whatever BASE_ADDR is. -/
def Obligations.WindowPlacement : Prop :=
  (∀ off : Offset, windowOffset (hostAddress off) = some off) ∧
  (∀ (a : Nat) (off : Offset), windowOffset a = some off → hostAddress off = a) ∧
  (∀ a : Nat, windowOffset a = none ↔ a < Config.baseAddr ∨ Config.baseAddr + 256 ≤ a)

/-- R54: the four words that SETKEY writes hold the key bytes where R14 puts them. -/
def Obligations.SetKeyLoadsTheKey : Prop :=
  ∀ (k : KeyBytes) (s : State) (rest : List HostOp),
    s.core.pend = .none → s.sched = [] → s.program = pseudoLines (.setKey k) ++ rest →
    ∃ t, runSteps 4 s = .next t ∧ keySnapshot t.core.key = k ∧
      t = { s with program := rest, core := { s.core with key := t.core.key } }

/-- R54: one poll of WAIT reads STATUS; the host stays in the loop while bit 0 is 1. -/
def Obligations.WaitPollsStatus : Prop :=
  ∀ (s : State) (rest : List HostOp), whoseTurn s = .host → s.program = .wait :: rest →
    (s.core.pend ≠ .none → step s = .next { s with
      sched := s.sched.tail, readLog := { off := 0x24#8, value := s.core.statusWord } :: s.readLog }) ∧
    (s.core.pend = .none → step s = .next { s with
      program := rest, sched := s.sched.tail,
      readLog := { off := 0x24#8, value := s.core.statusWord } :: s.readLog })

/-! ### Reset -/

/-- R96: what a reset between any two steps leaves of the core, and the power-on reset, which leaves the same values; the
storage of the table is unchanged by the former. Of the datapath working state nothing is said, and nothing of the host
beside the core. -/
def Obligations.ResetEffects : Prop :=
  (∀ s : State, whoseTurn s = .reset →
    ∃ t d, step s = .next t ∧ t.core =
      { key := #v[0, 0, 0, 0], din := #v[0, 0], dout := #v[0, 0], pend := .none, tv := false, err := false
        errcode := 0, lastop := 0, S := s.core.S, datapath := d }) ∧
  (∃ d S, State.reset.core =
    { key := #v[0, 0, 0, 0], din := #v[0, 0], dout := #v[0, 0], pend := .none, tv := false, err := false
      errcode := 0, lastop := 0, S := S, datapath := d })

/-- The model's own reset of a run (log entry 7; R96 does not say what the host does): the host goes on with its next
line and keeps what it has read; the schedule moves on by the reset's turn (log entry 1). -/
def Obligations.ResetLeavesTheHostAsItWas : Prop :=
  ∀ s : State, whoseTurn s = .reset →
    ∃ t, step s = .next t ∧ t.program = s.program ∧ t.readLog = s.readLog ∧ t.sched = s.sched.tail

/-- R98: after reset the core is idle with no table: EXPAND is accepted, ENCRYPT and DECRYPT are rejected with
NO_TABLE. -/
def Obligations.FirstCommandAfterReset : Prop :=
  (∀ c : CoreState, c.resetCore.pend = .none ∧ c.resetCore.tv = false) ∧
  (∀ s : State, s.core.pend = .none → s.core.tv = false → s.core.err = false →
    (∃ t, exec .expand s = .next t ∧ t.core.busy = true ∧ t.core.err = false) ∧
    ∀ i : Instr, i ≠ .expand → ∃ t, exec i s = .next t ∧ t.core.pend = .none ∧ t.core.err = true ∧
      t.core.errcode = 3)

/-! ### Invariants and whole-machine rules -/

/-- The invariant of the status fields holds at reset. -/
def Obligations.StatusInvariantAtReset : Prop := StatusInv State.reset.core

/-- Every step keeps the invariant, from every state that has it. -/
def Obligations.StatusInvariantKeptByEveryStep : Prop :=
  ∀ s t : State, StatusInv s.core → step s = .next t → StatusInv t.core

/-- R29: only the completion of EXPAND writes the table (a reset leaves its storage alone). -/
def Obligations.OnlyExpandCompletionWritesTheTable : Prop :=
  ∀ s t : State, step s = .next t →
    t.core.S = s.core.S ∨ ∃ kb, whoseTurn s = .core ∧ s.core.pend = .expand kb ∧ t.core.S = expandKey kb

/-- R16: only the completions of ENCRYPT and DECRYPT, and reset, write DOUT. -/
def Obligations.OnlyTransformCompletionWritesDout : Prop :=
  ∀ s t : State, step s = .next t → t.core.dout ≠ s.core.dout →
    whoseTurn s = .reset ∨
    (whoseTurn s = .core ∧ ∃ m0 m1, s.core.pend = .encrypt m0 m1 ∨ s.core.pend = .decrypt m0 m1)

/-- R20: what changes TV. -/
def Obligations.TableValidTransitions : Prop :=
  ∀ s t : State, step s = .next t →
    (s.core.tv = false → t.core.tv = true →
      whoseTurn s = .core ∧ ∃ kb, s.core.pend = .expand kb ∧ t.core.S = expandKey kb) ∧
    (s.core.tv = true → t.core.tv = false →
      whoseTurn s = .reset ∨
      (whoseTurn s = .host ∧ s.core.pend = .none ∧ (∃ kb, t.core.pend = .expand kb) ∧
        ∃ rest, s.program = .write 0x20#8 4 0x00000001#32 :: rest))

/-- R19: what changes BUSY. -/
def Obligations.BusyTransitions : Prop :=
  ∀ s t : State, step s = .next t →
    (s.core.pend = .none → t.core.pend ≠ .none →
      whoseTurn s = .host ∧ ∃ i rest, s.program = .write 0x20#8 4 (encode i) :: rest) ∧
    (s.core.pend ≠ .none → t.core.pend = .none → whoseTurn s = .core ∨ whoseTurn s = .reset) ∧
    (whoseTurn s = .core ∨ whoseTurn s = .reset → t.core.pend = .none) ∧
    (s.core.pend ≠ .none → t.core.pend ≠ .none → t.core.pend = s.core.pend)

/-- R21, R22: what sets and clears ERR, and that a recorded code stays. -/
def Obligations.ErrorIsSticky : Prop :=
  ∀ s t : State, step s = .next t →
    (s.core.err = true → t.core.err = false →
      whoseTurn s = .reset ∨
      (whoseTurn s = .host ∧ ∃ v rest, s.program = .write 0x24#8 4 v :: rest ∧ v.getLsbD 3 = true)) ∧
    (s.core.err = true → t.core.err = true → t.core.errcode = s.core.errcode) ∧
    (s.core.err = false → t.core.err = true →
      whoseTurn s = .host ∧ (∃ w rest, s.program = .write 0x20#8 4 w :: rest) ∧ t.core.pend = s.core.pend ∧
      (t.core.errcode = 1 ∨ t.core.errcode = 2 ∨ t.core.errcode = 3))

/-- R23: a step that accepts a command leaves LASTOP at that command's code, whatever it was before; LASTOP changes in no
other step but a reset, which leaves it 0. -/
def Obligations.LastopNamesTheLastAcceptedCommand : Prop :=
  ∀ s t : State, step s = .next t →
    (s.core.pend = .none → t.core.pend ≠ .none →
      ∃ i rest, s.program = .write 0x20#8 4 (encode i) :: rest ∧ t.core.lastop = opcodeOf i) ∧
    (t.core.lastop ≠ s.core.lastop →
      (whoseTurn s = .reset ∧ t.core.lastop = 0) ∨ (s.core.pend = .none ∧ t.core.pend ≠ .none))

/-- R105: a write to KEY or DIN while an operation is pending leaves it pending, and the machine comes to the same state
whether the completion comes before the write or after it. -/
def Obligations.InputWritesCommuteWithCompletion : Prop :=
  ∀ (s : State) (off : Offset) (v : Word) (rest : List HostOp) (ts : List Turn),
    s.core.pend ≠ .none → s.program = .write off 4 v :: rest → off.toNat % 4 = 0 → off.toNat < 0x18 →
    (∃ t, step { s with sched := .host :: .core :: ts } = .next t ∧ t.core.pend = s.core.pend) ∧
    ∃ t, runSteps 2 { s with sched := .host :: .core :: ts } = .next t ∧
      runSteps 2 { s with sched := .core :: .host :: ts } = .next t

/-- I2, R102: with TV = 0 nothing the host reads, now or later, depends on what the table's storage holds: two runs that
differ only in it read the same words and agree on everything else in the end, and on the table too once TV is 1. This
also says that the table contents the model chose for reset (log entry 5) cannot be observed. -/
def Obligations.InvalidTableIsNeverObserved : Prop :=
  ∀ (s : State) (S' : Table) (n : Nat) (t : State),
    StatusInv s.core → s.core.tv = false → runSteps n s = .next t →
    ∃ S'', runSteps n { s with core := { s.core with S := S' } } =
        .next { t with core := { t.core with S := S'' } } ∧
      (t.core.tv = true → S'' = t.core.S)

/-- I1, R101: while ENCRYPT or DECRYPT is pending nothing the host reads depends on what DOUT holds, and after the
completion DOUT does not depend on it either. -/
def Obligations.UnreadyResultIsNeverObserved : Prop :=
  ∀ (s : State) (D' : Vector Word 2) (n : Nat) (t : State),
    s.core.pend.transforming = true → runSteps n s = .next t →
    ∃ D'', runSteps n { s with core := { s.core with dout := D' } } =
        .next { t with core := { t.core with dout := D'' } } ∧
      (t.core.pend.transforming = false → D'' = t.core.dout)

/-- R28: no observation depends on the datapath working state. -/
def Obligations.DatapathIsNeverObserved : Prop :=
  ∀ (s : State) (d : Datapath) (n : Nat) (t : State), runSteps n s = .next t →
    ∃ d', runSteps n { s with core := { s.core with datapath := d } } =
      .next { t with core := { t.core with datapath := d' } }

/-- Every run of a host program whose accesses are all defined (R33) is safe: no number of steps stops it (R83). -/
def Obligations.DefinedAccessesNeverStopTheMachine : Prop :=
  ∀ s : State, s.programDefined → s.Safe

/-- R108: every WAIT ends, under the model's fair schedule (log entry 1), within the schedule's length and two steps. -/
def Obligations.EveryWaitEnds : Prop :=
  ∀ (s : State) (rest : List HostOp), s.program = .wait :: rest →
    ∃ n t, n ≤ s.sched.length + 2 ∧ runSteps n s = .next t ∧ t.program = rest ∧ t.core.pend = .none

/-- R42: a host that polls after the issue of a command and then reads a result of it reads the word that the
completion wrote, in whatever order the schedule puts the steps, as long as no reset comes. -/
def Obligations.PollingSynchronises : Prop :=
  ∀ (s : State) (off : Offset) (value : Word) (rest : List HostOp),
    s.program = .wait :: .read off 4 :: rest → (∀ x ∈ s.sched, x ≠ .reset) →
    ((∃ m0 m1, s.core.pend = .encrypt m0 m1 ∧
        ((off = 0x18#8 ∧ value = (encryptBlock (m0, m1) s.core.S).1) ∨
          (off = 0x1C#8 ∧ value = (encryptBlock (m0, m1) s.core.S).2))) ∨
      (∃ c0 c1, s.core.pend = .decrypt c0 c1 ∧
        ((off = 0x18#8 ∧ value = (decryptBlock (c0, c1) s.core.S).1) ∨
          (off = 0x1C#8 ∧ value = (decryptBlock (c0, c1) s.core.S).2))) ∨
      (∃ kb, s.core.pend = .expand kb ∧
        ∃ (i : Nat) (_ : i < 26), off.toNat = 0x40 + 4 * i ∧ value = (expandKey kb)[i])) →
    ∃ n t, n ≤ s.sched.length + 3 ∧ runSteps n s = .next t ∧ t.program = rest ∧
      t.readLog.head? = some { off := off, value := value }
end

