-- ==== Sys2Proof/Laws/State.lean ====
section
/-! SUPPORT. The fields after each update of the state: one lemma per field per update, so that no later proof unfolds
a record update. -/

namespace Sys2Proof.Machine

variable (c : CoreState) (s : State)

/-! ### `CoreState.writeKey` -/

@[simp] theorem CoreState.writeKey_key (n : Fin 4) (v : Word) : (c.writeKey n v).key = c.key.set n v := rfl
@[simp] theorem CoreState.writeKey_din (n : Fin 4) (v : Word) : (c.writeKey n v).din = c.din := rfl
@[simp] theorem CoreState.writeKey_dout (n : Fin 4) (v : Word) : (c.writeKey n v).dout = c.dout := rfl
@[simp] theorem CoreState.writeKey_tv (n : Fin 4) (v : Word) : (c.writeKey n v).tv = c.tv := rfl
@[simp] theorem CoreState.writeKey_err (n : Fin 4) (v : Word) : (c.writeKey n v).err = c.err := rfl
@[simp] theorem CoreState.writeKey_errcode (n : Fin 4) (v : Word) : (c.writeKey n v).errcode = c.errcode := rfl
@[simp] theorem CoreState.writeKey_lastop (n : Fin 4) (v : Word) : (c.writeKey n v).lastop = c.lastop := rfl
@[simp] theorem CoreState.writeKey_S (n : Fin 4) (v : Word) : (c.writeKey n v).S = c.S := rfl
@[simp] theorem CoreState.writeKey_pend (n : Fin 4) (v : Word) : (c.writeKey n v).pend = c.pend := rfl
@[simp] theorem CoreState.writeKey_datapath (n : Fin 4) (v : Word) : (c.writeKey n v).datapath = c.datapath := rfl

/-! ### `CoreState.writeDin` -/

@[simp] theorem CoreState.writeDin_key (n : Fin 2) (v : Word) : (c.writeDin n v).key = c.key := rfl
@[simp] theorem CoreState.writeDin_din (n : Fin 2) (v : Word) : (c.writeDin n v).din = c.din.set n v := rfl
@[simp] theorem CoreState.writeDin_dout (n : Fin 2) (v : Word) : (c.writeDin n v).dout = c.dout := rfl
@[simp] theorem CoreState.writeDin_tv (n : Fin 2) (v : Word) : (c.writeDin n v).tv = c.tv := rfl
@[simp] theorem CoreState.writeDin_err (n : Fin 2) (v : Word) : (c.writeDin n v).err = c.err := rfl
@[simp] theorem CoreState.writeDin_errcode (n : Fin 2) (v : Word) : (c.writeDin n v).errcode = c.errcode := rfl
@[simp] theorem CoreState.writeDin_lastop (n : Fin 2) (v : Word) : (c.writeDin n v).lastop = c.lastop := rfl
@[simp] theorem CoreState.writeDin_S (n : Fin 2) (v : Word) : (c.writeDin n v).S = c.S := rfl
@[simp] theorem CoreState.writeDin_pend (n : Fin 2) (v : Word) : (c.writeDin n v).pend = c.pend := rfl
@[simp] theorem CoreState.writeDin_datapath (n : Fin 2) (v : Word) : (c.writeDin n v).datapath = c.datapath := rfl

/-! ### `issueExpand` -/

@[simp] theorem issueExpand_key : (issueExpand c).key = c.key := rfl
@[simp] theorem issueExpand_din : (issueExpand c).din = c.din := rfl
@[simp] theorem issueExpand_dout : (issueExpand c).dout = c.dout := rfl
@[simp] theorem issueExpand_tv : (issueExpand c).tv = false := rfl
@[simp] theorem issueExpand_err : (issueExpand c).err = c.err := rfl
@[simp] theorem issueExpand_errcode : (issueExpand c).errcode = c.errcode := rfl
@[simp] theorem issueExpand_lastop : (issueExpand c).lastop = 1 := rfl
@[simp] theorem issueExpand_S : (issueExpand c).S = c.S := rfl
@[simp] theorem issueExpand_pend : (issueExpand c).pend = .expand (keySnapshot c.key) := rfl
@[simp] theorem issueExpand_datapath : (issueExpand c).datapath = c.datapath := rfl

/-! ### `issueEncrypt` -/

@[simp] theorem issueEncrypt_key : (issueEncrypt c).key = c.key := rfl
@[simp] theorem issueEncrypt_din : (issueEncrypt c).din = c.din := rfl
@[simp] theorem issueEncrypt_dout : (issueEncrypt c).dout = c.dout := rfl
@[simp] theorem issueEncrypt_tv : (issueEncrypt c).tv = c.tv := rfl
@[simp] theorem issueEncrypt_err : (issueEncrypt c).err = c.err := rfl
@[simp] theorem issueEncrypt_errcode : (issueEncrypt c).errcode = c.errcode := rfl
@[simp] theorem issueEncrypt_lastop : (issueEncrypt c).lastop = 2 := rfl
@[simp] theorem issueEncrypt_S : (issueEncrypt c).S = c.S := rfl
@[simp] theorem issueEncrypt_pend : (issueEncrypt c).pend = .encrypt c.din[0] c.din[1] := rfl
@[simp] theorem issueEncrypt_datapath : (issueEncrypt c).datapath = c.datapath := rfl

/-! ### `issueDecrypt` -/

@[simp] theorem issueDecrypt_key : (issueDecrypt c).key = c.key := rfl
@[simp] theorem issueDecrypt_din : (issueDecrypt c).din = c.din := rfl
@[simp] theorem issueDecrypt_dout : (issueDecrypt c).dout = c.dout := rfl
@[simp] theorem issueDecrypt_tv : (issueDecrypt c).tv = c.tv := rfl
@[simp] theorem issueDecrypt_err : (issueDecrypt c).err = c.err := rfl
@[simp] theorem issueDecrypt_errcode : (issueDecrypt c).errcode = c.errcode := rfl
@[simp] theorem issueDecrypt_lastop : (issueDecrypt c).lastop = 3 := rfl
@[simp] theorem issueDecrypt_S : (issueDecrypt c).S = c.S := rfl
@[simp] theorem issueDecrypt_pend : (issueDecrypt c).pend = .decrypt c.din[0] c.din[1] := rfl
@[simp] theorem issueDecrypt_datapath : (issueDecrypt c).datapath = c.datapath := rfl

/-! ### `completeExpand` -/

@[simp] theorem completeExpand_key (kb : KeyBytes) : (completeExpand kb c).key = c.key := rfl
@[simp] theorem completeExpand_din (kb : KeyBytes) : (completeExpand kb c).din = c.din := rfl
@[simp] theorem completeExpand_dout (kb : KeyBytes) : (completeExpand kb c).dout = c.dout := rfl
@[simp] theorem completeExpand_tv (kb : KeyBytes) : (completeExpand kb c).tv = true := rfl
@[simp] theorem completeExpand_err (kb : KeyBytes) : (completeExpand kb c).err = c.err := rfl
@[simp] theorem completeExpand_errcode (kb : KeyBytes) : (completeExpand kb c).errcode = c.errcode := rfl
@[simp] theorem completeExpand_lastop (kb : KeyBytes) : (completeExpand kb c).lastop = c.lastop := rfl
@[simp] theorem completeExpand_S (kb : KeyBytes) : (completeExpand kb c).S = expandKey kb := rfl
@[simp] theorem completeExpand_pend (kb : KeyBytes) : (completeExpand kb c).pend = .none := rfl
@[simp] theorem completeExpand_datapath (kb : KeyBytes) : (completeExpand kb c).datapath = c.datapath := rfl

/-! ### `completeEncrypt` -/

@[simp] theorem completeEncrypt_key (m0 m1 : Word) : (completeEncrypt m0 m1 c).key = c.key := rfl
@[simp] theorem completeEncrypt_din (m0 m1 : Word) : (completeEncrypt m0 m1 c).din = c.din := rfl
@[simp] theorem completeEncrypt_dout (m0 m1 : Word) : (completeEncrypt m0 m1 c).dout = #v[(encryptBlock (m0, m1) c.S).1, (encryptBlock (m0, m1) c.S).2] := rfl
@[simp] theorem completeEncrypt_tv (m0 m1 : Word) : (completeEncrypt m0 m1 c).tv = c.tv := rfl
@[simp] theorem completeEncrypt_err (m0 m1 : Word) : (completeEncrypt m0 m1 c).err = c.err := rfl
@[simp] theorem completeEncrypt_errcode (m0 m1 : Word) : (completeEncrypt m0 m1 c).errcode = c.errcode := rfl
@[simp] theorem completeEncrypt_lastop (m0 m1 : Word) : (completeEncrypt m0 m1 c).lastop = c.lastop := rfl
@[simp] theorem completeEncrypt_S (m0 m1 : Word) : (completeEncrypt m0 m1 c).S = c.S := rfl
@[simp] theorem completeEncrypt_pend (m0 m1 : Word) : (completeEncrypt m0 m1 c).pend = .none := rfl
@[simp] theorem completeEncrypt_datapath (m0 m1 : Word) : (completeEncrypt m0 m1 c).datapath = c.datapath := rfl

/-! ### `completeDecrypt` -/

@[simp] theorem completeDecrypt_key (c0 c1 : Word) : (completeDecrypt c0 c1 c).key = c.key := rfl
@[simp] theorem completeDecrypt_din (c0 c1 : Word) : (completeDecrypt c0 c1 c).din = c.din := rfl
@[simp] theorem completeDecrypt_dout (c0 c1 : Word) : (completeDecrypt c0 c1 c).dout = #v[(decryptBlock (c0, c1) c.S).1, (decryptBlock (c0, c1) c.S).2] := rfl
@[simp] theorem completeDecrypt_tv (c0 c1 : Word) : (completeDecrypt c0 c1 c).tv = c.tv := rfl
@[simp] theorem completeDecrypt_err (c0 c1 : Word) : (completeDecrypt c0 c1 c).err = c.err := rfl
@[simp] theorem completeDecrypt_errcode (c0 c1 : Word) : (completeDecrypt c0 c1 c).errcode = c.errcode := rfl
@[simp] theorem completeDecrypt_lastop (c0 c1 : Word) : (completeDecrypt c0 c1 c).lastop = c.lastop := rfl
@[simp] theorem completeDecrypt_S (c0 c1 : Word) : (completeDecrypt c0 c1 c).S = c.S := rfl
@[simp] theorem completeDecrypt_pend (c0 c1 : Word) : (completeDecrypt c0 c1 c).pend = .none := rfl
@[simp] theorem completeDecrypt_datapath (c0 c1 : Word) : (completeDecrypt c0 c1 c).datapath = c.datapath := rfl

/-! ### `CoreState.resetCore` -/

@[simp] theorem CoreState.resetCore_key : (c.resetCore).key = Vector.replicate 4 0 := rfl
@[simp] theorem CoreState.resetCore_din : (c.resetCore).din = Vector.replicate 2 0 := rfl
@[simp] theorem CoreState.resetCore_dout : (c.resetCore).dout = Vector.replicate 2 0 := rfl
@[simp] theorem CoreState.resetCore_tv : (c.resetCore).tv = false := rfl
@[simp] theorem CoreState.resetCore_err : (c.resetCore).err = false := rfl
@[simp] theorem CoreState.resetCore_errcode : (c.resetCore).errcode = 0 := rfl
@[simp] theorem CoreState.resetCore_lastop : (c.resetCore).lastop = 0 := rfl
@[simp] theorem CoreState.resetCore_S : (c.resetCore).S = c.S := rfl
@[simp] theorem CoreState.resetCore_pend : (c.resetCore).pend = .none := rfl
@[simp] theorem CoreState.resetCore_datapath : (c.resetCore).datapath = c.datapath := rfl

/-! ### `State.withCore` -/

@[simp] theorem State.withCore_core (d : CoreState) : (s.withCore d).core = d := rfl
@[simp] theorem State.withCore_program (d : CoreState) : (s.withCore d).program = s.program := rfl
@[simp] theorem State.withCore_sched (d : CoreState) : (s.withCore d).sched = s.sched := rfl
@[simp] theorem State.withCore_readLog (d : CoreState) : (s.withCore d).readLog = s.readLog := rfl
@[simp] theorem State.withCore_draws (d : CoreState) : (s.withCore d).draws = s.draws := rfl

/-! ### `State.logRead` -/

@[simp] theorem State.logRead_core (off : Offset) (v : Word) : (s.logRead off v).core = s.core := rfl
@[simp] theorem State.logRead_program (off : Offset) (v : Word) : (s.logRead off v).program = s.program := rfl
@[simp] theorem State.logRead_sched (off : Offset) (v : Word) : (s.logRead off v).sched = s.sched := rfl
@[simp] theorem State.logRead_readLog (off : Offset) (v : Word) : (s.logRead off v).readLog = { off := off, value := v } :: s.readLog := rfl
@[simp] theorem State.logRead_draws (off : Offset) (v : Word) : (s.logRead off v).draws = s.draws := rfl

/-! ### `takeTurn` -/

@[simp] theorem takeTurn_core : (takeTurn s).core = s.core := rfl
@[simp] theorem takeTurn_program : (takeTurn s).program = s.program := rfl
@[simp] theorem takeTurn_sched : (takeTurn s).sched = s.sched.tail := rfl
@[simp] theorem takeTurn_readLog : (takeTurn s).readLog = s.readLog := rfl
@[simp] theorem takeTurn_draws : (takeTurn s).draws = s.draws := rfl

/-! ### `draw32` -/

@[simp] theorem draw32_core : ((draw32 s).2).core = s.core := rfl
@[simp] theorem draw32_program : ((draw32 s).2).program = s.program := rfl
@[simp] theorem draw32_sched : ((draw32 s).2).sched = s.sched := rfl
@[simp] theorem draw32_readLog : ((draw32 s).2).readLog = s.readLog := rfl
@[simp] theorem draw32_draws : ((draw32 s).2).draws = s.draws + 1 := rfl
@[simp] theorem draw32_value : (draw32 s).1 = Config.draw32 s.draws := rfl

/-! ### `scrambleDatapath` -/

@[simp] theorem scrambleDatapath_core : (scrambleDatapath s).core = { s.core with datapath := Config.freeDatapath s.draws } := rfl
@[simp] theorem scrambleDatapath_program : (scrambleDatapath s).program = s.program := rfl
@[simp] theorem scrambleDatapath_sched : (scrambleDatapath s).sched = s.sched := rfl
@[simp] theorem scrambleDatapath_readLog : (scrambleDatapath s).readLog = s.readLog := rfl
@[simp] theorem scrambleDatapath_draws : (scrambleDatapath s).draws = s.draws + 1 := rfl

/-! ### `raiseCmdError` -/

@[simp] theorem raiseCmdError_core (e : CmdError) : (raiseCmdError e s).core = s.core.raiseCmdError e := rfl
@[simp] theorem raiseCmdError_program (e : CmdError) : (raiseCmdError e s).program = s.program := rfl
@[simp] theorem raiseCmdError_sched (e : CmdError) : (raiseCmdError e s).sched = s.sched := rfl
@[simp] theorem raiseCmdError_readLog (e : CmdError) : (raiseCmdError e s).readLog = s.readLog := rfl
@[simp] theorem raiseCmdError_draws (e : CmdError) : (raiseCmdError e s).draws = s.draws := rfl

/-! ### `State.withFetchWord` -/

@[simp] theorem State.withFetchWord_core (k w : Nat) : (s.withFetchWord k w).core = s.core := rfl
@[simp] theorem State.withFetchWord_program (k w : Nat) : (s.withFetchWord k w).program = .write (offsetOf .cmd) 4 (BitVec.ofNat 32 (w % 2 ^ k)) :: s.program := rfl
@[simp] theorem State.withFetchWord_sched (k w : Nat) : (s.withFetchWord k w).sched = .host :: s.sched := rfl
@[simp] theorem State.withFetchWord_readLog (k w : Nat) : (s.withFetchWord k w).readLog = s.readLog := rfl
@[simp] theorem State.withFetchWord_draws (k w : Nat) : (s.withFetchWord k w).draws = s.draws := rfl

/-! ### `CoreState.raiseCmdError` and `CoreState.writeStatus`: what they leave alone in every case, and what they
do in each -/

@[simp] theorem CoreState.raiseCmdError_key (e : CmdError) : (c.raiseCmdError e).key = c.key := by
  unfold CoreState.raiseCmdError; split <;> rfl
@[simp] theorem CoreState.raiseCmdError_din (e : CmdError) : (c.raiseCmdError e).din = c.din := by
  unfold CoreState.raiseCmdError; split <;> rfl
@[simp] theorem CoreState.raiseCmdError_dout (e : CmdError) : (c.raiseCmdError e).dout = c.dout := by
  unfold CoreState.raiseCmdError; split <;> rfl
@[simp] theorem CoreState.raiseCmdError_tv (e : CmdError) : (c.raiseCmdError e).tv = c.tv := by
  unfold CoreState.raiseCmdError; split <;> rfl
@[simp] theorem CoreState.raiseCmdError_lastop (e : CmdError) : (c.raiseCmdError e).lastop = c.lastop := by
  unfold CoreState.raiseCmdError; split <;> rfl
@[simp] theorem CoreState.raiseCmdError_S (e : CmdError) : (c.raiseCmdError e).S = c.S := by
  unfold CoreState.raiseCmdError; split <;> rfl
@[simp] theorem CoreState.raiseCmdError_pend (e : CmdError) : (c.raiseCmdError e).pend = c.pend := by
  unfold CoreState.raiseCmdError; split <;> rfl
@[simp] theorem CoreState.raiseCmdError_datapath (e : CmdError) : (c.raiseCmdError e).datapath = c.datapath := by
  unfold CoreState.raiseCmdError; split <;> rfl
@[simp] theorem CoreState.raiseCmdError_err (e : CmdError) : (c.raiseCmdError e).err = true := by
  unfold CoreState.raiseCmdError
  split
  · assumption
  · rfl
theorem CoreState.raiseCmdError_errcode (e : CmdError) :
    (c.raiseCmdError e).errcode = if c.err then c.errcode else e.code := by
  unfold CoreState.raiseCmdError; split <;> rfl

@[simp] theorem CoreState.writeStatus_key (v : Word) : (c.writeStatus v).key = c.key := by
  unfold CoreState.writeStatus; split <;> rfl
@[simp] theorem CoreState.writeStatus_din (v : Word) : (c.writeStatus v).din = c.din := by
  unfold CoreState.writeStatus; split <;> rfl
@[simp] theorem CoreState.writeStatus_dout (v : Word) : (c.writeStatus v).dout = c.dout := by
  unfold CoreState.writeStatus; split <;> rfl
@[simp] theorem CoreState.writeStatus_tv (v : Word) : (c.writeStatus v).tv = c.tv := by
  unfold CoreState.writeStatus; split <;> rfl
@[simp] theorem CoreState.writeStatus_lastop (v : Word) : (c.writeStatus v).lastop = c.lastop := by
  unfold CoreState.writeStatus; split <;> rfl
@[simp] theorem CoreState.writeStatus_S (v : Word) : (c.writeStatus v).S = c.S := by
  unfold CoreState.writeStatus; split <;> rfl
@[simp] theorem CoreState.writeStatus_pend (v : Word) : (c.writeStatus v).pend = c.pend := by
  unfold CoreState.writeStatus; split <;> rfl
@[simp] theorem CoreState.writeStatus_datapath (v : Word) : (c.writeStatus v).datapath = c.datapath := by
  unfold CoreState.writeStatus; split <;> rfl
theorem CoreState.writeStatus_err (v : Word) : (c.writeStatus v).err = (c.err && !v.getLsbD 3) := by
  unfold CoreState.writeStatus; split <;> simp_all
theorem CoreState.writeStatus_errcode (v : Word) :
    (c.writeStatus v).errcode = if v.getLsbD 3 then 0 else c.errcode := by
  unfold CoreState.writeStatus; split <;> rfl

/-! ### BUSY -/

@[simp] theorem CoreState.busy_eq_false : c.busy = false ↔ c.pend = .none := by
  unfold CoreState.busy; cases c.pend <;> simp [Pending.busy]

@[simp] theorem CoreState.busy_eq_true : c.busy = true ↔ c.pend ≠ .none := by
  rw [← Bool.not_eq_false, CoreState.busy_eq_false]

@[simp] theorem State.withCore_self : s.withCore s.core = s := rfl

end Sys2Proof.Machine
end

