-- ==== Sys2Proof/Laws/Ops.lean ====
section
/-! SUPPORT. What each shared operation can do, said once: the acceptance of a command, the commands, the draws, the
host's reads and writes. -/

namespace Sys2Proof.Machine

variable {s t : State}

/-- Everything the acceptance of a command can do: reject it with BUSY_CMD, reject it with NO_TABLE, or issue it. -/
theorem acceptCommand_cases {needsTable : Bool} {issue : CoreState → CoreState}
    (h : acceptCommand needsTable issue s = .next t) :
    (s.core.pend ≠ .none ∧ t = raiseCmdError .busyCmd s) ∨
    (s.core.pend = .none ∧ needsTable = true ∧ s.core.tv = false ∧ t = raiseCmdError .noTable s) ∨
    (s.core.pend = .none ∧ (needsTable = true → s.core.tv = true) ∧ t = s.withCore (issue s.core)) := by
  unfold acceptCommand at h
  split at h
  · next hb => exact .inl ⟨by simpa using hb, by simpa using h.symm⟩
  · next hb =>
    have hp : s.core.pend = .none := by simpa using hb
    split at h
    · next ht =>
      have ht' : needsTable = true ∧ s.core.tv = false := by simpa using ht
      exact .inr (.inl ⟨hp, ht'.1, ht'.2, by simpa using h.symm⟩)
    · next ht =>
      have ht' : needsTable = true → s.core.tv = true := by simpa using ht
      exact .inr (.inr ⟨hp, ht', by simpa using h.symm⟩)

theorem acceptCommand_busy {needsTable : Bool} {issue : CoreState → CoreState} (hp : s.core.pend ≠ .none) :
    acceptCommand needsTable issue s = .next (raiseCmdError .busyCmd s) := by
  unfold acceptCommand; rw [if_pos (by simpa using hp)]

theorem acceptCommand_noTable {issue : CoreState → CoreState} (hp : s.core.pend = .none) (ht : s.core.tv = false) :
    acceptCommand true issue s = .next (raiseCmdError .noTable s) := by
  unfold acceptCommand; rw [if_neg (by simpa using hp), if_pos (by simp [ht])]

theorem acceptCommand_idle {needsTable : Bool} {issue : CoreState → CoreState} (hp : s.core.pend = .none)
    (ht : needsTable = true → s.core.tv = true) :
    acceptCommand needsTable issue s = .next (s.withCore (issue s.core)) := by
  unfold acceptCommand; rw [if_neg (by simpa using hp), if_neg (by simpa using ht)]

/-- The acceptance of a command never stops the machine (R83). -/
theorem acceptCommand_goes_on (needsTable : Bool) (issue : CoreState → CoreState) (s : State) :
    ∃ t, acceptCommand needsTable issue s = .next t := by
  unfold acceptCommand; split
  · exact ⟨_, rfl⟩
  · split <;> exact ⟨_, rfl⟩

/-- What a command needs of the table, and what its issue does (R64, R73, R77). -/
theorem exec_eq_acceptCommand (i : Instr) (s : State) :
    exec i s = match i with
      | .expand => acceptCommand false issueExpand s
      | .encrypt => acceptCommand true issueEncrypt s
      | .decrypt => acceptCommand true issueDecrypt s := by
  cases i <;> rfl

theorem exec_goes_on (i : Instr) (s : State) : ∃ t, exec i s = .next t := by
  cases i <;> exact acceptCommand_goes_on _ _ s

/-- Everything a write to CMD can do (R85): reject the word, or issue one of the three commands. -/
theorem submitCommand_cases {w : Word} (h : submitCommand w s = .next t) :
    (∃ e, t = raiseCmdError e s) ∨
    (s.core.pend = .none ∧ decode w = .ok .expand ∧ t = s.withCore (issueExpand s.core)) ∨
    (s.core.pend = .none ∧ s.core.tv = true ∧ decode w = .ok .encrypt ∧ t = s.withCore (issueEncrypt s.core)) ∨
    (s.core.pend = .none ∧ s.core.tv = true ∧ decode w = .ok .decrypt ∧ t = s.withCore (issueDecrypt s.core)) := by
  unfold submitCommand at h
  split at h
  · exact .inl ⟨_, by simpa using h.symm⟩
  · split at h
    · exact .inl ⟨_, by simpa using h.symm⟩
    · next i hd =>
      cases i with
      | expand =>
        obtain ⟨_, rfl⟩ | ⟨_, _, _, rfl⟩ | ⟨hp, _, rfl⟩ := acceptCommand_cases h
        · exact .inl ⟨_, rfl⟩
        · exact .inl ⟨_, rfl⟩
        · exact .inr (.inl ⟨hp, hd, rfl⟩)
      | encrypt =>
        obtain ⟨_, rfl⟩ | ⟨_, _, _, rfl⟩ | ⟨hp, ht, rfl⟩ := acceptCommand_cases h
        · exact .inl ⟨_, rfl⟩
        · exact .inl ⟨_, rfl⟩
        · exact .inr (.inr (.inl ⟨hp, ht rfl, hd, rfl⟩))
      | decrypt =>
        obtain ⟨_, rfl⟩ | ⟨_, _, _, rfl⟩ | ⟨hp, ht, rfl⟩ := acceptCommand_cases h
        · exact .inl ⟨_, rfl⟩
        · exact .inl ⟨_, rfl⟩
        · exact .inr (.inr (.inr ⟨hp, ht rfl, hd, rfl⟩))

theorem submitCommand_goes_on (w : Word) (s : State) : ∃ t, submitCommand w s = .next t := by
  unfold submitCommand
  split
  · exact ⟨_, rfl⟩
  · split
    · exact ⟨_, rfl⟩
    · exact exec_goes_on _ s

/-! ### Reads: the host's answer, and what a read leaves alone -/

@[simp] theorem memRead_core (off : Offset) (s : State) : (memRead off s).2.core = s.core := by
  unfold memRead; split <;> (try split) <;> rfl

@[simp] theorem memRead_program (off : Offset) (s : State) : (memRead off s).2.program = s.program := by
  unfold memRead; split <;> (try split) <;> rfl

@[simp] theorem memRead_sched (off : Offset) (s : State) : (memRead off s).2.sched = s.sched := by
  unfold memRead; split <;> (try split) <;> rfl

@[simp] theorem memRead_readLog (off : Offset) (s : State) : (memRead off s).2.readLog = s.readLog := by
  unfold memRead; split <;> (try split) <;> rfl

/-- A read of STATUS is never a draw. -/
@[simp] theorem memRead_status (s : State) : memRead (offsetOf .status) s = (s.core.statusWord, s) := rfl

/-- Bit 0 of STATUS is BUSY. -/
theorem statusWord_bit_zero (c : CoreState) : c.statusWord.getLsbD 0 = c.busy := by
  unfold CoreState.statusWord
  rw [BitVec.getLsbD_setWidth, BitVec.getLsbD_append]
  simp

/-- One poll of WAIT: the read is logged, and the host goes past the loop once BUSY is 0. -/
theorem pollStatus_eq (rest : List HostOp) (s : State) :
    pollStatus rest s = if s.core.busy then s.logRead (offsetOf .status) s.core.statusWord
      else { s.logRead (offsetOf .status) s.core.statusWord with program := rest } := by
  unfold pollStatus
  rw [memRead_status, statusWord_bit_zero]

/-! ### Writes -/

/-- An aligned write never stops the machine. -/
theorem memWrite_goes_on (off : Offset) (v : Word) (s : State) : ∃ t, memWrite off v s = .next t := by
  unfold memWrite
  split
  case _ => exact ⟨_, rfl⟩
  case _ => exact ⟨_, rfl⟩
  case _ => exact ⟨_, rfl⟩
  case _ => exact submitCommand_goes_on v s
  case _ => exact ⟨_, rfl⟩
  case _ => exact ⟨_, rfl⟩
  case _ => exact ⟨_, rfl⟩

/-- Every move a write can make with the core (R39, R85). -/
inductive WriteMove (off : Offset) (v : Word) (c : CoreState) : CoreState → Prop where
  | key (n : Fin 4) (at_off : regAt off = .key n) : WriteMove off v c (c.writeKey n v)
  | din (n : Fin 2) (at_off : regAt off = .din n) : WriteMove off v c (c.writeDin n v)
  | status (at_off : regAt off = .status) : WriteMove off v c (c.writeStatus v)
  | ignored (at_off : regAt off ≠ .cmd) : WriteMove off v c c
  | rejected (at_off : regAt off = .cmd) (e : CmdError) : WriteMove off v c (c.raiseCmdError e)
  | expand (at_off : regAt off = .cmd) (idle : c.pend = .none) (word : decode v = .ok .expand) :
      WriteMove off v c (issueExpand c)
  | encrypt (at_off : regAt off = .cmd) (idle : c.pend = .none) (table : c.tv = true)
      (word : decode v = .ok .encrypt) : WriteMove off v c (issueEncrypt c)
  | decrypt (at_off : regAt off = .cmd) (idle : c.pend = .none) (table : c.tv = true)
      (word : decode v = .ok .decrypt) : WriteMove off v c (issueDecrypt c)

/-- Everything a write can do: one of the moves, and the rest of the state as it was. -/
theorem memWrite_cases {off : Offset} {v : Word} (h : memWrite off v s = .next t) :
    ∃ c, WriteMove off v s.core c ∧ t = s.withCore c := by
  unfold memWrite at h
  split at h
  case _ n hr => cases h; exact ⟨_, .key n hr, rfl⟩
  case _ n hr => cases h; exact ⟨_, .din n hr, rfl⟩
  case _ n hr => cases h; exact ⟨_, .ignored (by simp [hr]), rfl⟩
  case _ hr =>
    obtain ⟨e, rfl⟩ | ⟨hp, hd, rfl⟩ | ⟨hp, ht, hd, rfl⟩ | ⟨hp, ht, hd, rfl⟩ := submitCommand_cases h
    · exact ⟨_, .rejected hr e, rfl⟩
    · exact ⟨_, .expand hr hp hd, rfl⟩
    · exact ⟨_, .encrypt hr hp ht hd, rfl⟩
    · exact ⟨_, .decrypt hr hp ht hd, rfl⟩
  case _ hr => cases h; exact ⟨_, .status hr, rfl⟩
  case _ n hr => cases h; exact ⟨_, .ignored (by simp [hr]), rfl⟩
  case _ hr => cases h; exact ⟨_, .ignored (by simp [hr]), rfl⟩

end Sys2Proof.Machine
end

