-- ==== Sys2Proof/Laws/PerInstr.lean ====
section
/-! SUPPORT. Facts about every command as syntax, one lemma per constructor of Instr (LAWS.json). -/

namespace Sys2Proof.Laws.CommandWord

/-- The fields of a command's word (R47): RSV is 0, OPC is the command's code; and the command is well formed. -/
def Statement (i : Instr) : Prop := rsvField (encode i) = 0 ∧ opcField (encode i) = opcodeOf i ∧ i.wf = true

theorem expand : Statement .expand := ⟨by decide, by decide, rfl⟩

theorem encrypt : Statement .encrypt := ⟨by decide, by decide, rfl⟩

theorem decrypt : Statement .decrypt := ⟨by decide, by decide, rfl⟩

end Sys2Proof.Laws.CommandWord
end

