-- ==== Sys2Proof/Laws/Step.lean ====
section
/-! SUPPORT. What one step can do, said once: `StepMove` lists the moves, `step_cases` says that a step that answers a
next state made one of them, and `step_core_cases` keeps of it only what happened to the core. -/

namespace Sys2Proof.Machine

variable {s t : State}

/-- The state a host access starts from: its turn and its line are taken. -/
def afterLine (s : State) (rest : List HostOp) : State := { takeTurn s with program := rest }

@[simp] theorem afterLine_core (s : State) (rest : List HostOp) : (afterLine s rest).core = s.core := rfl
@[simp] theorem afterLine_program (s : State) (rest : List HostOp) : (afterLine s rest).program = rest := rfl
@[simp] theorem afterLine_sched (s : State) (rest : List HostOp) : (afterLine s rest).sched = s.sched.tail := rfl
@[simp] theorem afterLine_readLog (s : State) (rest : List HostOp) : (afterLine s rest).readLog = s.readLog := rfl
@[simp] theorem afterLine_draws (s : State) (rest : List HostOp) : (afterLine s rest).draws = s.draws := rfl

theorem accessDefined_iff (off : Offset) (width : Nat) :
    accessDefined off width = true ↔ width = 4 ∧ off.toNat % 4 = 0 := by
  simp [accessDefined, accessWf]

/-- Every move of a step. -/
inductive StepMove (s : State) : State → Prop where
  | hostDone (turn : whoseTurn s = .host) (line : s.program = []) : StepMove s (takeTurn s)
  | read (off : Offset) (rest : List HostOp) (turn : whoseTurn s = .host) (line : s.program = .read off 4 :: rest)
      (aligned : off.toNat % 4 = 0) :
      StepMove s ((memRead off (afterLine s rest)).2.logRead off (memRead off (afterLine s rest)).1)
  | write (off : Offset) (v : Word) (rest : List HostOp) (c : CoreState) (turn : whoseTurn s = .host)
      (line : s.program = .write off 4 v :: rest) (aligned : off.toNat % 4 = 0) (move : WriteMove off v s.core c) :
      StepMove s ((afterLine s rest).withCore c)
  | pollAgain (rest : List HostOp) (turn : whoseTurn s = .host) (line : s.program = .wait :: rest)
      (busy : s.core.pend ≠ .none) : StepMove s ((takeTurn s).logRead (offsetOf .status) s.core.statusWord)
  | pollDone (rest : List HostOp) (turn : whoseTurn s = .host) (line : s.program = .wait :: rest)
      (idle : s.core.pend = .none) :
      StepMove s ((afterLine s rest).logRead (offsetOf .status) s.core.statusWord)
  | coreIdle (turn : whoseTurn s = .core) (idle : s.core.pend = .none) : StepMove s (takeTurn s)
  | doneExpand (kb : KeyBytes) (turn : whoseTurn s = .core) (pending : s.core.pend = .expand kb) :
      StepMove s (scrambleDatapath ((takeTurn s).withCore (completeExpand kb s.core)))
  | doneEncrypt (m0 m1 : Word) (turn : whoseTurn s = .core) (pending : s.core.pend = .encrypt m0 m1) :
      StepMove s (scrambleDatapath ((takeTurn s).withCore (completeEncrypt m0 m1 s.core)))
  | doneDecrypt (c0 c1 : Word) (turn : whoseTurn s = .core) (pending : s.core.pend = .decrypt c0 c1) :
      StepMove s (scrambleDatapath ((takeTurn s).withCore (completeDecrypt c0 c1 s.core)))
  | reset (turn : whoseTurn s = .reset) : StepMove s (scrambleDatapath ((takeTurn s).withCore s.core.resetCore))

theorem hostTurn_cases (turn : whoseTurn s = .host) (h : hostTurn (takeTurn s) = .next t) : StepMove s t := by
  unfold hostTurn at h
  simp only [takeTurn_program] at h
  split at h
  case _ hp => cases h; exact .hostDone turn hp
  case _ off width rest hp =>
    unfold hostRead at h
    split at h
    · next hw =>
      obtain ⟨rfl, ha⟩ := (accessDefined_iff _ _).1 hw
      cases h; exact .read off rest turn hp ha
    · cases h
  case _ off width v rest hp =>
    unfold hostWrite at h
    split at h
    · next hw =>
      obtain ⟨rfl, ha⟩ := (accessDefined_iff _ _).1 hw
      obtain ⟨c, hm, rfl⟩ := memWrite_cases h
      exact .write off v rest c turn hp ha hm
    · cases h
  case _ rest hp =>
    rw [pollStatus_eq] at h
    cases hb : s.core.busy with
    | true =>
      rw [if_pos (by simpa using hb)] at h
      cases h; exact .pollAgain rest turn hp (by simpa using hb)
    | false =>
      rw [if_neg (by simpa using hb)] at h
      cases h; exact .pollDone rest turn hp (by simpa using hb)

theorem coreTurn_cases (turn : whoseTurn s = .core) : StepMove s (coreTurn (takeTurn s)) := by
  unfold coreTurn
  simp only [takeTurn_core]
  split
  case _ hp => exact .coreIdle turn hp
  case _ kb hp => exact .doneExpand kb turn hp
  case _ m0 m1 hp => exact .doneEncrypt m0 m1 turn hp
  case _ c0 c1 hp => exact .doneDecrypt c0 c1 turn hp

/-! ### The completion step, by what is pending -/

theorem coreTurn_idle (idle : s.core.pend = .none) : coreTurn s = s := by
  unfold coreTurn; rw [idle]

theorem coreTurn_expand {kb : KeyBytes} (pending : s.core.pend = .expand kb) :
    coreTurn s = scrambleDatapath (s.withCore (completeExpand kb s.core)) := by
  unfold coreTurn; rw [pending]

theorem coreTurn_encrypt {m0 m1 : Word} (pending : s.core.pend = .encrypt m0 m1) :
    coreTurn s = scrambleDatapath (s.withCore (completeEncrypt m0 m1 s.core)) := by
  unfold coreTurn; rw [pending]

theorem coreTurn_decrypt {c0 c1 : Word} (pending : s.core.pend = .decrypt c0 c1) :
    coreTurn s = scrambleDatapath (s.withCore (completeDecrypt c0 c1 s.core)) := by
  unfold coreTurn; rw [pending]

/-- After the completion step nothing is pending. -/
@[simp] theorem coreTurn_pend (s : State) : (coreTurn s).core.pend = .none := by
  unfold coreTurn
  split
  · assumption
  all_goals simp

@[simp] theorem coreTurn_program (s : State) : (coreTurn s).program = s.program := by
  unfold coreTurn; split <;> simp

@[simp] theorem coreTurn_sched (s : State) : (coreTurn s).sched = s.sched := by
  unfold coreTurn; split <;> simp

@[simp] theorem coreTurn_readLog (s : State) : (coreTurn s).readLog = s.readLog := by
  unfold coreTurn; split <;> simp

/-- Everything a step can do. -/
theorem step_cases (h : step s = .next t) : StepMove s t := by
  unfold step at h
  split at h
  · next turn => exact hostTurn_cases turn h
  · next turn => cases h; exact coreTurn_cases turn
  · next turn => cases h; exact .reset turn

/-- Everything a step can do to the core. -/
inductive CoreMove (c : CoreState) : CoreState → Prop where
  | same : CoreMove c c
  | write (off : Offset) (v : Word) (d : CoreState) (move : WriteMove off v c d) : CoreMove c d
  | doneExpand (kb : KeyBytes) (dp : Datapath) (pending : c.pend = .expand kb) :
      CoreMove c { completeExpand kb c with datapath := dp }
  | doneEncrypt (m0 m1 : Word) (dp : Datapath) (pending : c.pend = .encrypt m0 m1) :
      CoreMove c { completeEncrypt m0 m1 c with datapath := dp }
  | doneDecrypt (c0 c1 : Word) (dp : Datapath) (pending : c.pend = .decrypt c0 c1) :
      CoreMove c { completeDecrypt c0 c1 c with datapath := dp }
  | reset (dp : Datapath) : CoreMove c { c.resetCore with datapath := dp }

theorem step_core_cases (h : step s = .next t) : CoreMove s.core t.core := by
  cases step_cases h with
  | hostDone => exact .same
  | read => simpa using CoreMove.same
  | write off v rest c _ _ _ move => exact .write off v c move
  | pollAgain => exact .same
  | pollDone => exact .same
  | coreIdle => exact .same
  | doneExpand kb _ pending => exact .doneExpand kb _ pending
  | doneEncrypt m0 m1 _ pending => exact .doneEncrypt m0 m1 _ pending
  | doneDecrypt c0 c1 _ pending => exact .doneDecrypt c0 c1 _ pending
  | reset => exact .reset _

/-! ### The step, where the state says which move it makes -/

theorem step_host (turn : whoseTurn s = .host) : step s = hostTurn (takeTurn s) := by
  unfold step; rw [turn]

theorem step_core (turn : whoseTurn s = .core) : step s = .next (coreTurn (takeTurn s)) := by
  unfold step; rw [turn]

theorem step_reset (turn : whoseTurn s = .reset) : step s = .next (resetTurn (takeTurn s)) := by
  unfold step; rw [turn]

theorem step_read {off : Offset} {width : Nat} {rest : List HostOp} (turn : whoseTurn s = .host)
    (line : s.program = .read off width :: rest) : step s = hostRead off width (afterLine s rest) := by
  rw [step_host turn, hostTurn, takeTurn_program, line]; rfl

theorem step_write {off : Offset} {width : Nat} {v : Word} {rest : List HostOp} (turn : whoseTurn s = .host)
    (line : s.program = .write off width v :: rest) : step s = hostWrite off width v (afterLine s rest) := by
  rw [step_host turn, hostTurn, takeTurn_program, line]; rfl

theorem step_wait {rest : List HostOp} (turn : whoseTurn s = .host) (line : s.program = .wait :: rest) :
    step s = .next (pollStatus rest (takeTurn s)) := by
  rw [step_host turn, hostTurn, takeTurn_program, line]

theorem hostRead_defined {off : Offset} (aligned : off.toNat % 4 = 0) (s : State) :
    hostRead off 4 s = .next ((memRead off s).2.logRead off (memRead off s).1) :=
  if_pos ((accessDefined_iff _ _).2 ⟨rfl, aligned⟩)

theorem hostWrite_defined {off : Offset} (aligned : off.toNat % 4 = 0) (v : Word) (s : State) :
    hostWrite off 4 v s = memWrite off v s :=
  if_pos ((accessDefined_iff _ _).2 ⟨rfl, aligned⟩)

end Sys2Proof.Machine
end

