-- ==== Sys2Proof/Tests/Slice0.lean ====
section
/-! SUPPORT. The model's own tests, each with an expected result from spec/95_test_vectors.md or worked out from a rule,
and for every obligation with hypotheses a concrete state and operands that meet them. -/

namespace Sys2Proof.Tests

open Sys2Proof.Machine

/-- The core after reset but for its pending operation, TV and ERR. -/
def coreWith (p : Pending) (tv err : Bool) : CoreState := { CoreState.reset with pend := p, tv := tv, err := err }

/-- The machine after reset but for its core, the host's lines and the schedule. -/
def machine (c : CoreState) (program : List HostOp) (sched : List Turn) : State :=
  { State.reset with core := c, program := program, sched := sched }

/-- The 16 zero bytes (V3.1). -/
def zeroKey : KeyBytes := Vector.replicate 16 0

/-- The key 00 01 02 ... 0F (V3.3). -/
def seqKey : KeyBytes := Vector.ofFn fun x => BitVec.ofNat 8 x.val

/-- What a step leaves of one field, or `none` where it stops. -/
def after {α : Type} (f : State → α) : Host.Outcome State Fault Refusal → Option α
  | .next t => some (f t)
  | .fault _ => none
  | .refused _ => none

/-! ### Parameters (R5, R6) -/

theorem test_parameters :
    Config.tableWords = 26 ∧ Config.mixWords = 4 ∧ Config.mixIterations = 78 := by decide

/-! ### Well-formedness: what each check takes, and an ill-formed term it refuses -/

theorem test_wf_command_word : commandWordWf 0x00000002 = true := by decide
theorem test_wf_refuses_reserved_bits : commandWordWf 0x00000011 = false := by decide
theorem test_wf_refuses_opcode_zero : commandWordWf 0x00000000 = false := by decide
theorem test_wf_refuses_opcode_four : commandWordWf 0x00000004 = false := by decide
theorem test_wf_access : (HostOp.read 0x24 4).wf = true := by decide
theorem test_wf_refuses_misaligned_read : (HostOp.read 0x02 4).wf = false := by decide
theorem test_wf_refuses_narrow_read : (HostOp.read 0x24 2).wf = false := by decide
theorem test_wf_refuses_byte_write : (HostOp.write 0x00 1 0).wf = false := by decide

/-! ### Decoding: each command's word written out from R47 (RSV, bits 31:4, then OPC, bits 3:0), and V5.1 -/

theorem test_decode_expand : decode (0b0000000000000000000000000000#28 ++ 0b0001#4) = .ok .expand := by decide
theorem test_decode_encrypt : decode (0b0000000000000000000000000000#28 ++ 0b0010#4) = .ok .encrypt := by decide
theorem test_decode_decrypt : decode (0b0000000000000000000000000000#28 ++ 0b0011#4) = .ok .decrypt := by decide
theorem test_decode_zero : decode 0x00000000 = .error .unassignedOpcode := by decide
theorem test_decode_0F : decode 0x0000000F = .error .unassignedOpcode := by decide
theorem test_decode_reserved_high : decode 0x80000001 = .error .reservedBitsSet := by decide
theorem test_decode_ones : decode 0xFFFFFFFF = .error .reservedBitsSet := by decide
theorem test_decodeTableWord : decodeTableWord 32 3 = some .decrypt ∧ decodeTableWord 32 0 = none := by decide

/-! ### Primitives (V1) -/

theorem test_rotl_amount_reduced : rotl32 0x12345678 0xFFFFFFFF = 0x091A2B3C := by decide
theorem test_rotr_wraps : rotr32 0x80000001 1 = 0xC0000000 := by decide
theorem test_sub_wraps : sub32 0x00000000 0x00000001 = 0xFFFFFFFF := by decide

/-! ### Packing (V2.2) and mixing (V3.4) -/

theorem test_pack_little_endian : packKey seqKey = #v[0x03020100, 0x07060504, 0x0B0A0908, 0x0F0E0D0C] := by decide
theorem test_mix_first : (mixLoop 1 (mixStart zeroKey)).A = 0xBF0A8B1D ∧ (mixLoop 1 (mixStart zeroKey)).B = 0xB7E15163 := by
  decide +kernel
theorem test_mix_fifth : (mixLoop 5 (mixStart zeroKey)).A = 0xA96769FD ∧ (mixLoop 5 (mixStart zeroKey)).B = 0x88308B16 := by
  decide +kernel

/-! ### The commands, one step each (V5.2, V5.3, V3.1, E1, V4.3) -/

theorem test_expand_issue :
    after (·.core.statusWord) (step (State.reset.withFetchWord 32 1)) = some 0x00000101 := by decide

theorem test_expand_completion :
    after (fun t => (t.core.S[0], t.core.S[25], t.core.statusWord))
      (step (machine { coreWith (.expand zeroKey) false false with lastop := 1 } [] [])) =
    some (0x9BBBD8C8, 0x65046380, 0x00000102) := by decide +kernel

theorem test_encrypt_without_table :
    after (·.core.statusWord) (step (State.reset.withFetchWord 32 2)) = some 0x00000038 := by decide

theorem test_encrypt_completion :
    after (·.core.dout) (step (machine { coreWith (.encrypt 0 0) true false with S := expandKey zeroKey } [] [])) =
    some #v[0xEEDBA521, 0x6D8F4B15] := by decide +kernel

theorem test_decrypt_issue :
    after (fun t => (t.core.statusWord, t.core.pend))
      (step ((machine { coreWith .none true false with din := #v[5, 6] } [] []).withFetchWord 32 3)) =
    some (0x00000303, .decrypt 5 6) := by decide

theorem test_decrypt_completion :
    after (·.core.dout)
      (step (machine { coreWith (.decrypt 0x01234567 0x89ABCDEF) true false with S := expandKey seqKey } [] [])) =
    some #v[0xBD28D448, 0xCF884211] := by decide +kernel

/-! ### Errors, STATUS, window and reset (V5.3, V5.4, V5.5) -/

theorem test_illegal_word : after (·.core.statusWord) (step (State.reset.withFetchWord 32 0)) = some 0x00000018 := by decide

theorem test_busy_before_illegal :
    after (·.core.statusWord)
      (step ((machine { coreWith (.expand zeroKey) false false with lastop := 1 } [] []).withFetchWord 32 7)) =
    some 0x00000129 := by decide

theorem test_status_write_only_clears_error :
    after (·.core.statusWord)
      (step (machine { coreWith .none true true with errcode := 2, lastop := 1 } [.write 0x24 4 0xFFFFFFFF] [])) =
    some 0x00000102 := by decide

theorem test_status_write_without_bit_three :
    after (·.core.statusWord)
      (step (machine { coreWith .none false true with errcode := 3 } [.write 0x24 4 0xFFFFFFF7] [])) =
    some 0x00000038 := by decide

theorem test_reserved_reads_zero :
    after (·.readLog) (step (machine CoreState.reset [.read 0xFC 4] [])) = some [{ off := 0xFC, value := 0 }] := by decide

theorem test_misaligned_read_faults :
    after (·.core.statusWord) (step (machine CoreState.reset [.read 0x02 4] [])) = none := by decide

theorem test_reset_abandons_pending :
    after (fun t => (t.core.pend, t.core.statusWord, t.core.key[0]))
      (step (machine { coreWith (.encrypt 1 2) true true with key := #v[9, 9, 9, 9] } [] [.reset])) =
    some (.none, 0, 0) := by decide

/-! ### Witnesses: the hypotheses of each obligation, met together

Where an obligation has clauses, each clause has its line. -/

theorem witness_StepRunsTheDecodedCommand :
    whoseTurn (machine CoreState.reset [.write 0x20 4 2] []) = .host ∧
    (machine CoreState.reset [.write 0x20 4 2] []).program = .write 0x20#8 4 2 :: [] ∧
    decode 2 = .ok .encrypt := by decide

theorem witness_ScheduleDecidesTheTurn :
    (machine CoreState.reset [] [.reset, .host]).sched = .reset :: [.host] ∧
    ((machine (coreWith (.encrypt 0 0) true false) [] []).sched = [] ∧
      (machine (coreWith (.encrypt 0 0) true false) [] []).core.pend ≠ .none) ∧
    ((machine CoreState.reset [] []).sched = [] ∧ (machine CoreState.reset [] []).core.pend = .none) := by decide

/-- The core's part of the hypotheses of `CommandAcceptance`, clause by clause. -/
theorem witness_CommandAcceptance :
    (whoseTurn (machine (coreWith (.encrypt 0 0) true false) [.write 0x20 4 1] [.host]) = .host ∧
      (machine (coreWith (.encrypt 0 0) true false) [.write 0x20 4 1] [.host]).program = .write 0x20#8 4 1 :: [] ∧
      (coreWith (.encrypt 0 0) true false).pend ≠ .none) ∧
    (whoseTurn (machine (coreWith .none true false) [.write 0x20 4 4] []) = .host ∧
      (coreWith .none true false).pend = .none ∧ decode 4 = .error .unassignedOpcode) ∧
    ((coreWith .none false false).pend = .none ∧ decode 2 = .ok .encrypt ∧ (coreWith .none false false).tv = false) ∧
    ((coreWith .none true false).pend = .none ∧ decode 2 = .ok .encrypt ∧ (coreWith .none true false).tv = true) ∧
    ((coreWith .none false false).pend = .none ∧ decode 3 = .ok .decrypt ∧ (coreWith .none false false).tv = false) ∧
    ((coreWith .none true false).pend = .none ∧ decode 3 = .ok .decrypt ∧ (coreWith .none true false).tv = true) ∧
    ((coreWith .none false false).pend = .none ∧ decode 1 = .ok .expand) := by decide

theorem witness_FirstErrorIsKept :
    (coreWith .none true false).err = false ∧
    ((machine (coreWith .none true true) [] []).core.err = true ∧
      (machine (coreWith .none true true) [] []).core.pend = .none ∧
      (machine (coreWith .none true true) [] []).core.tv = true) := by decide

/-- One state for each of the three ways a command is rejected. -/
theorem witness_RejectedCommandChangesOnlyTheError :
    (whoseTurn (machine (coreWith (.expand zeroKey) false false) [.write 0x20 4 7] [.host]) = .host ∧
      (machine (coreWith (.expand zeroKey) false false) [.write 0x20 4 7] [.host]).core.pend ≠ .none) ∧
    (whoseTurn (machine CoreState.reset [.write 0x20 4 0x11] []) = .host ∧
      decode 0x11 = .error .reservedBitsSet) ∧
    (whoseTurn (machine CoreState.reset [.write 0x20 4 3] []) = .host ∧ decode 3 = .ok .decrypt ∧
      (machine CoreState.reset [.write 0x20 4 3] []).core.tv = false) := by decide

theorem witness_ExpandIssue :
    State.reset.core.pend = .none ∧ (machine (coreWith (.expand zeroKey) false false) [] []).core.pend ≠ .none := by decide

/-- For `EncryptIssue` and `DecryptIssue` alike. -/
theorem witness_EncryptIssue_DecryptIssue :
    ((machine (coreWith .none true false) [] []).core.pend = .none ∧
      (machine (coreWith .none true false) [] []).core.tv = true) ∧
    (machine (coreWith (.decrypt 0 0) true false) [] []).core.pend ≠ .none ∧
    (State.reset.core.pend = .none ∧ State.reset.core.tv = false) := by decide

theorem witness_CommandFrame : exec .expand State.reset = .next (State.reset.withCore (issueExpand CoreState.reset)) := rfl

theorem witness_ExpandCompletion :
    whoseTurn (machine (coreWith (.expand zeroKey) false false) [] []) = .core ∧
    (machine (coreWith (.expand zeroKey) false false) [] []).core.pend = .expand zeroKey := by decide

theorem witness_TurnsWithNothingToDoOnlyPass :
    (whoseTurn (machine CoreState.reset [] [.core]) = .core ∧ (machine CoreState.reset [] [.core]).core.pend = .none) ∧
    (whoseTurn (machine (coreWith (.encrypt 0 0) true false) [] [.host]) = .host ∧
      (machine (coreWith (.encrypt 0 0) true false) [] [.host]).program = []) := by decide

theorem witness_EncryptCompletion :
    whoseTurn (machine (coreWith (.encrypt 1 2) true false) [] [.core]) = .core ∧
    (machine (coreWith (.encrypt 1 2) true false) [] [.core]).core.pend = .encrypt 1 2 := by decide

theorem witness_DecryptCompletion :
    whoseTurn (machine (coreWith (.decrypt 1 2) true false) [] []) = .core ∧
    (machine (coreWith (.decrypt 1 2) true false) [] []).core.pend = .decrypt 1 2 := by decide

/-- The hypotheses on numbers in the statements on primitives and on the key schedule, at their bounds. -/
theorem witness_primitive_and_key_bounds : (31 < 32) ∧ (32 ≤ 32) ∧ (24 < 25) ∧ (25 < 26) ∧ (3 < 4) := by decide

/-- The state-level clause of `DecryptInvertsEncrypt`: an ENCRYPT completes, and a state with the same table completes
the DECRYPT of its DOUT. -/
theorem witness_DecryptInvertsEncrypt :
    ∃ s t u v : State, whoseTurn s = .core ∧ s.core.pend = .encrypt 1 2 ∧ step s = .next t ∧ whoseTurn u = .core ∧
      u.core.pend = .decrypt t.core.dout[0] t.core.dout[1] ∧ u.core.S = t.core.S ∧ step u = .next v := by
  have hs := step_core (s := machine (coreWith (.encrypt 1 2) true false) [] []) (by decide)
  generalize coreTurn (takeTurn (machine (coreWith (.encrypt 1 2) true false) [] [])) = t at hs
  refine ⟨_, t, { t with core := { t.core with pend := .decrypt t.core.dout[0] t.core.dout[1] }, sched := [.core] }, _,
    by decide, by decide, hs, rfl, rfl, rfl, step_core rfl⟩

/-- A host read of each kind of offset, at the bounds of its range. -/
theorem witness_HostReadAnswers :
    (whoseTurn (machine (coreWith (.encrypt 0 0) true false) [.read 0x1C 4] [.host]) = .host ∧
      (machine (coreWith (.encrypt 0 0) true false) [.read 0x1C 4] [.host]).program = .read 0x1C#8 4 :: []) ∧
    (coreWith .none true false).tv = true ∧ (coreWith .none false false).tv = false ∧
    ((0x0C : Offset).toNat % 4 = 0 ∧ (0x0C : Offset).toNat = 4 * 3) ∧
    ((0x14 : Offset).toNat % 4 = 0 ∧ (0x14 : Offset).toNat = 0x10 + 4 * 1) ∧
    ((0x1C : Offset).toNat % 4 = 0 ∧ (0x1C : Offset).toNat = 0x18 + 4 * 1) ∧
    ((0x20 : Offset).toNat % 4 = 0 ∧ (0x20 : Offset).toNat = 0x20) ∧
    ((0x24 : Offset).toNat % 4 = 0 ∧ (0x24 : Offset).toNat = 0x24) ∧
    ((0x40 : Offset).toNat % 4 = 0 ∧ (0x40 : Offset).toNat = 0x40 + 4 * 0) ∧
    ((0xA4 : Offset).toNat % 4 = 0 ∧ (0xA4 : Offset).toNat = 0x40 + 4 * 25) ∧
    ((0x3C : Offset).toNat % 4 = 0 ∧ 0x28 ≤ (0x3C : Offset).toNat ∧ (0x3C : Offset).toNat < 0x40) ∧
    ((0xA8 : Offset).toNat % 4 = 0 ∧ 0xA8 ≤ (0xA8 : Offset).toNat) := by decide

/-- A host write; the offsets of its clauses are those of `witness_HostReadAnswers`. -/
theorem witness_HostWriteEffects :
    whoseTurn (machine CoreState.reset [.write 0xA4 4 1] []) = .host ∧
    (machine CoreState.reset [.write 0xA4 4 1] []).program = .write 0xA4#8 4 1 :: [] ∧
    (0xA4 : Offset).toNat % 4 = 0 ∧ 0x40 ≤ (0xA4 : Offset).toNat ∧ (0xA4 : Offset).toNat < 0xA8 := by decide

theorem witness_OnlyUndefinedAccessesFault :
    step (machine CoreState.reset [.write 0x00 1 0] []) = .fault (.busAccessError 0x00 1) ∧
    step (machine CoreState.reset [.read 0x02 4] []) = .fault (.busAccessError 0x02 4) := ⟨rfl, rfl⟩

/-- The two accesses of each clause of `RepeatedAccesses`: a read; KEY3, DIN1 and STATUS writes; a CMD write. -/
theorem witness_RepeatedAccesses :
    (∃ t, step (machine CoreState.reset [.read 0x24 4] []) = .next t) ∧
    (∃ t, step (machine CoreState.reset [.write 0x0C 4 1] []) = .next t ∧
      (machine t.core [.write 0x0C 4 1] [.host]).core = t.core ∧
      whoseTurn (machine t.core [.write 0x0C 4 1] [.host]) = .host) ∧
    ((0x14 : Offset).toNat < 0x18 ∧ (0x24 : Offset).toNat = 0x24) ∧
    (∃ t, decode 1 = .ok .expand ∧ step (machine CoreState.reset [.write 0x20 4 1] []) = .next t ∧
      (machine t.core [.write 0x20 4 1] [.host]).core = t.core ∧
      whoseTurn (machine t.core [.write 0x20 4 1] [.host]) = .host) :=
  ⟨⟨_, rfl⟩, ⟨_, rfl, rfl, rfl⟩, by decide, ⟨_, rfl, rfl, rfl, rfl⟩⟩

theorem witness_StatusWriteClearsTheError :
    whoseTurn (machine (coreWith .none false true) [.write 0x24 4 8] []) = .host ∧
    (machine (coreWith .none false true) [.write 0x24 4 8] []).program = .write 0x24#8 4 8 :: [] ∧
    (0x00000008 : Word).getLsbD 3 = true ∧ (0xFFFFFFF7 : Word).getLsbD 3 = false := by decide

theorem witness_RegisterMap :
    WindowReg.table 25 ≠ .reserved ∧ (0x3C : Offset).toNat % 4 = 0 ∧ regAt 0x3C = .reserved ∧
    (0xA4 : Offset).toNat % 4 = 0 ∧ regAt 0xA4 ≠ .reserved := by decide

theorem witness_WindowPlacement : windowOffset (hostAddress 0xFF) = some 0xFF := by
  unfold windowOffset hostAddress
  rw [if_pos (by constructor <;> simp)]
  simp

theorem witness_SetKeyLoadsTheKey :
    (machine CoreState.reset (pseudoLines (.setKey seqKey)) []).core.pend = .none ∧
    (machine CoreState.reset (pseudoLines (.setKey seqKey)) []).sched = [] ∧
    (machine CoreState.reset (pseudoLines (.setKey seqKey)) []).program = pseudoLines (.setKey seqKey) ++ [] := by decide

theorem witness_WaitPollsStatus :
    (whoseTurn (machine (coreWith (.expand zeroKey) false false) [.wait] [.host]) = .host ∧
      (machine (coreWith (.expand zeroKey) false false) [.wait] [.host]).core.pend ≠ .none) ∧
    (whoseTurn (machine CoreState.reset [.wait] []) = .host ∧ (machine CoreState.reset [.wait] []).core.pend = .none) := by
  decide

/-- For `ResetEffects` and `ResetLeavesTheHostAsItWas` alike. -/
theorem witness_ResetEffects_ResetLeavesTheHostAsItWas : whoseTurn (machine (coreWith (.encrypt 0 0) true true) [] [.reset]) = .reset := by decide

theorem witness_FirstCommandAfterReset :
    State.reset.core.pend = .none ∧ State.reset.core.tv = false ∧ State.reset.core.err = false ∧
    Instr.decrypt ≠ .expand := by decide

/-- A core with EXPAND pending that meets the invariant. -/
theorem pending_core_inv : StatusInv { coreWith (.expand zeroKey) false false with lastop := 1 } := by
  constructor <;> simp [coreWith, CoreState.reset]

theorem witness_StatusInvariantKeptByEveryStep :
    StatusInv (machine { coreWith (.expand zeroKey) false false with lastop := 1 } [] []).core ∧
    ∃ t, step (machine { coreWith (.expand zeroKey) false false with lastop := 1 } [] []) = .next t :=
  ⟨pending_core_inv, _, step_core (by decide)⟩

/-- For `OnlyExpandCompletionWritesTheTable`: a step that answers a next state. -/
theorem witness_OnlyExpandCompletionWritesTheTable :
    ∃ t, step (machine (coreWith (.expand zeroKey) false false) [] [.core]) = .next t :=
  ⟨_, step_core (by decide)⟩

theorem witness_OnlyTransformCompletionWritesDout :
    ∃ t, step (machine { coreWith .none false false with dout := #v[1, 1] } [] [.reset]) = .next t ∧
      t.core.dout ≠ (machine { coreWith .none false false with dout := #v[1, 1] } [] [.reset]).core.dout :=
  ⟨_, rfl, by decide⟩

/-- TV set by a completion, and cleared by an issue. -/
theorem witness_TableValidTransitions :
    (∃ t, step (machine (coreWith (.expand zeroKey) false false) [] []) = .next t ∧
      (machine (coreWith (.expand zeroKey) false false) [] []).core.tv = false ∧ t.core.tv = true) ∧
    (∃ t, step (machine (coreWith .none true false) [.write 0x20 4 1] []) = .next t ∧
      (machine (coreWith .none true false) [.write 0x20 4 1] []).core.tv = true ∧ t.core.tv = false) :=
  ⟨⟨_, step_core (by decide), by decide, rfl⟩, ⟨_, rfl, by decide, by decide⟩⟩

/-- BUSY set by an issue, cleared by a completion, kept over a host's read. -/
theorem witness_BusyTransitions :
    (∃ t, step (machine CoreState.reset [.write 0x20 4 1] []) = .next t ∧ t.core.pend ≠ .none) ∧
    (∃ t, step (machine (coreWith (.encrypt 0 0) true false) [] []) = .next t ∧ t.core.pend = .none) ∧
    (∃ t, step (machine (coreWith (.encrypt 0 0) true false) [.read 0x24 4] [.host]) = .next t ∧ t.core.pend ≠ .none) :=
  ⟨⟨_, rfl, by decide⟩, ⟨_, step_core (by decide), coreTurn_pend _⟩, ⟨_, rfl, by decide⟩⟩

/-- ERR cleared by a STATUS write, kept over a second error, set by a rejected word. -/
theorem witness_ErrorIsSticky :
    (∃ t, step (machine (coreWith .none false true) [.write 0x24 4 8] []) = .next t ∧ t.core.err = false) ∧
    (∃ t, step (machine (coreWith .none false true) [.write 0x20 4 0] []) = .next t ∧ t.core.err = true) ∧
    (∃ t, step (machine (coreWith .none false false) [.write 0x20 4 0] []) = .next t ∧ t.core.err = true) :=
  ⟨⟨_, rfl, by decide⟩, ⟨_, rfl, by decide⟩, ⟨_, rfl, by decide⟩⟩

/-- A command accepted that changes LASTOP; the same command accepted again, which does not; a reset that changes it. -/
theorem witness_LastopNamesTheLastAcceptedCommand :
    (∃ t, step (machine CoreState.reset [.write 0x20 4 1] []) = .next t ∧ t.core.pend ≠ .none ∧
      t.core.lastop ≠ (machine CoreState.reset [.write 0x20 4 1] []).core.lastop) ∧
    (∃ t, step (machine { coreWith .none true false with lastop := 3 } [.write 0x20 4 3] []) = .next t ∧
      (machine { coreWith .none true false with lastop := 3 } [.write 0x20 4 3] []).core.pend = .none ∧
      t.core.pend ≠ .none) ∧
    (∃ t, step (machine { CoreState.reset with lastop := 3 } [] [.reset]) = .next t ∧
      t.core.lastop ≠ (machine { CoreState.reset with lastop := 3 } [] [.reset]).core.lastop) :=
  ⟨⟨_, rfl, by decide, by decide⟩, ⟨_, rfl, by decide, by decide⟩, ⟨_, rfl, by decide⟩⟩

theorem witness_InputWritesCommuteWithCompletion :
    (machine (coreWith (.encrypt 0 0) true false) [.write 0x14 4 1] []).core.pend ≠ .none ∧
    (machine (coreWith (.encrypt 0 0) true false) [.write 0x14 4 1] []).program = .write 0x14#8 4 1 :: [] ∧
    (0x14 : Offset).toNat % 4 = 0 ∧ (0x14 : Offset).toNat < 0x18 := by decide

/-- With EXPAND pending: one step, and TV is 1 after it. -/
theorem witness_InvalidTableIsNeverObserved :
    StatusInv (machine { coreWith (.expand zeroKey) false false with lastop := 1 } [] []).core ∧
    (machine { coreWith (.expand zeroKey) false false with lastop := 1 } [] []).core.tv = false ∧
    ∃ t, runSteps 1 (machine { coreWith (.expand zeroKey) false false with lastop := 1 } [] []) = .next t ∧
      t.core.tv = true :=
  ⟨pending_core_inv, by decide, _, runSteps_succ 0 (step_core (by decide)), rfl⟩

theorem witness_UnreadyResultIsNeverObserved :
    (machine (coreWith (.encrypt 0 0) true false) [] []).core.pend.transforming = true ∧
    ∃ t, runSteps 1 (machine (coreWith (.encrypt 0 0) true false) [] []) = .next t ∧
      t.core.pend.transforming = false :=
  ⟨by decide, _, runSteps_succ 0 (step_core (by decide)), by rw [coreTurn_pend]; rfl⟩

theorem witness_DatapathIsNeverObserved : ∃ t, runSteps 1 (machine CoreState.reset [.read 0x24 4] []) = .next t :=
  ⟨_, rfl⟩

theorem witness_DefinedAccessesNeverStopTheMachine :
    (machine CoreState.reset [.write 0x20 4 1, .wait, .read 0xA4 4] []).programDefined := by
  intro op hop
  simp only [machine, List.mem_cons, List.not_mem_nil, or_false] at hop
  obtain rfl | rfl | rfl := hop <;> decide

theorem witness_EveryWaitEnds :
    (machine (coreWith (.expand zeroKey) false false) [.wait] [.host, .host]).program = .wait :: [] := rfl

/-- A pending ENCRYPT read at DOUT1; a pending DECRYPT read at DOUT0; a pending EXPAND read at `S[25]`. -/
theorem witness_PollingSynchronises :
    ((machine (coreWith (.encrypt 1 2) true false) [.wait, .read 0x1C 4] [.host]).program =
        .wait :: .read 0x1C#8 4 :: [] ∧
      (∀ x ∈ (machine (coreWith (.encrypt 1 2) true false) [.wait, .read 0x1C 4] [.host]).sched, x ≠ .reset) ∧
      (machine (coreWith (.encrypt 1 2) true false) [.wait, .read 0x1C 4] [.host]).core.pend = .encrypt 1 2) ∧
    ((machine (coreWith (.decrypt 1 2) true false) [.wait, .read 0x18 4] []).core.pend = .decrypt 1 2 ∧
      (machine (coreWith (.decrypt 1 2) true false) [.wait, .read 0x18 4] []).program = .wait :: .read 0x18#8 4 :: []) ∧
    ((machine (coreWith (.expand zeroKey) false false) [.wait, .read 0xA4 4] []).core.pend = .expand zeroKey ∧
      (0xA4#8).toNat = 0x40 + 4 * 25) := by decide

end Sys2Proof.Tests
end

/-! ## The family 10_state: STATUS, the errors, the table and the datapath working state -/

namespace Sys2Proof.Machine

/-! ### Runs in lockstep -/

/-- A relation that every step carries on is carried on by every run: the induction behind the statements about two
runs that differ only in something the host cannot observe. -/
theorem runSteps_simulates {R : State → State → Prop}
    (sim : ∀ s s' t, R s s' → step s = .next t → ∃ t', step s' = .next t' ∧ R t t')
    {n : Nat} {s s' t : State} (hs : R s s') (h : runSteps n s = .next t) :
    ∃ t', runSteps n s' = .next t' ∧ R t t' := by
  induction n generalizing s s' with
  | zero => cases h; exact ⟨s', rfl, hs⟩
  | succ n ih =>
    obtain ⟨u, hu, hut⟩ := runSteps_succ_cases h
    obtain ⟨u', hu', hR⟩ := sim s s' u hs hu
    rw [runSteps_succ n hu']
    exact ih hR hut

/-! ### Another datapath working state (R28)

Every operation of the model commutes with putting another datapath working state into the core, or, where a completion
or a reset makes that state unspecified, forgets which one was put there. -/

/-- The core with another datapath working state. -/
def CoreState.withDatapath (d : Datapath) (c : CoreState) : CoreState := { c with datapath := d }

/-- The machine with another datapath working state in its core. -/
def State.withDatapath (d : Datapath) (s : State) : State := s.withCore (s.core.withDatapath d)

/-- An outcome with another datapath working state in its next state, if it has one. -/
def outcomeWithDatapath (d : Datapath) : Host.Outcome State Fault Refusal → Host.Outcome State Fault Refusal
  | .next s => .next (s.withDatapath d)
  | .fault r => .fault r
  | .refused r => .refused r

section

variable (d : Datapath) (c : CoreState) (s : State)

@[simp] theorem CoreState.withDatapath_tv : (c.withDatapath d).tv = c.tv := rfl
@[simp] theorem CoreState.withDatapath_pend : (c.withDatapath d).pend = c.pend := rfl
@[simp] theorem CoreState.withDatapath_busy : (c.withDatapath d).busy = c.busy := rfl
@[simp] theorem CoreState.withDatapath_err : (c.withDatapath d).err = c.err := rfl
@[simp] theorem State.withDatapath_core : (s.withDatapath d).core = s.core.withDatapath d := rfl
@[simp] theorem State.withDatapath_program : (s.withDatapath d).program = s.program := rfl
@[simp] theorem whoseTurn_withDatapath : whoseTurn (s.withDatapath d) = whoseTurn s := rfl
theorem takeTurn_withDatapath : takeTurn (s.withDatapath d) = (takeTurn s).withDatapath d := rfl
theorem State.withDatapath_self : s.withDatapath s.core.datapath = s := rfl

theorem CoreState.raiseCmdError_withDatapath (e : CmdError) :
    (c.withDatapath d).raiseCmdError e = (c.raiseCmdError e).withDatapath d := by
  simp only [CoreState.raiseCmdError, CoreState.withDatapath_err, apply_ite (CoreState.withDatapath d)]
  rfl

theorem CoreState.writeStatus_withDatapath (v : Word) :
    (c.withDatapath d).writeStatus v = (c.writeStatus v).withDatapath d := by
  simp only [CoreState.writeStatus, apply_ite (CoreState.withDatapath d)]
  rfl

/-- A rejection leaves the datapath alone. -/
theorem raiseCmdError_withDatapath (e : CmdError) :
    raiseCmdError e (s.withDatapath d) = (raiseCmdError e s).withDatapath d :=
  congrArg s.withCore (s.core.raiseCmdError_withDatapath d e)

/-- The acceptance of a command does not look at the datapath, where its issue does not. -/
theorem acceptCommand_withDatapath (needsTable : Bool) {issue : CoreState → CoreState}
    (commutes : ∀ c, issue (c.withDatapath d) = (issue c).withDatapath d) :
    acceptCommand needsTable issue (s.withDatapath d) = outcomeWithDatapath d (acceptCommand needsTable issue s) := by
  simp only [acceptCommand, State.withDatapath_core, CoreState.withDatapath_busy, CoreState.withDatapath_tv,
    raiseCmdError_withDatapath, commutes, apply_ite (outcomeWithDatapath d)]
  rfl

theorem exec_withDatapath (i : Instr) : exec i (s.withDatapath d) = outcomeWithDatapath d (exec i s) := by
  cases i with
  | expand => exact acceptCommand_withDatapath d s false fun _ => rfl
  | encrypt => exact acceptCommand_withDatapath d s true fun _ => rfl
  | decrypt => exact acceptCommand_withDatapath d s true fun _ => rfl

theorem submitCommand_withDatapath (w : Word) :
    submitCommand w (s.withDatapath d) = outcomeWithDatapath d (submitCommand w s) := by
  simp only [submitCommand, State.withDatapath_core, CoreState.withDatapath_busy, raiseCmdError_withDatapath]
  cases s.core.busy with
  | true => rfl
  | false =>
    cases decode w with
    | error e => rfl
    | ok i => exact exec_withDatapath d s i

theorem memWrite_withDatapath (off : Offset) (v : Word) :
    memWrite off v (s.withDatapath d) = outcomeWithDatapath d (memWrite off v s) := by
  unfold memWrite
  cases regAt off with
  | key n => rfl
  | din n => rfl
  | dout n => rfl
  | cmd => exact submitCommand_withDatapath d s v
  | status =>
    simp only [State.withDatapath_core, CoreState.writeStatus_withDatapath]
    rfl
  | table i => rfl
  | reserved => rfl

/-- A read answers the same word, whatever the datapath holds. -/
theorem memRead_withDatapath (off : Offset) :
    memRead off (s.withDatapath d) = ((memRead off s).1, (memRead off s).2.withDatapath d) := by
  unfold memRead
  cases regAt off with
  | key n => rfl
  | din n => rfl
  | dout n =>
    by_cases pending : s.core.pend.transforming = true
    · simp only [State.withDatapath_core, CoreState.withDatapath_pend, pending, reduceIte]; rfl
    · simp only [State.withDatapath_core, CoreState.withDatapath_pend, pending]; rfl
  | cmd => rfl
  | status => rfl
  | table i =>
    by_cases valid : s.core.tv = true
    · simp only [State.withDatapath_core, CoreState.withDatapath_tv, valid, reduceIte]; rfl
    · simp only [State.withDatapath_core, CoreState.withDatapath_tv, valid]; rfl
  | reserved => rfl

theorem hostRead_withDatapath (off : Offset) (width : Nat) :
    hostRead off width (s.withDatapath d) = outcomeWithDatapath d (hostRead off width s) := by
  simp only [hostRead, memRead_withDatapath, apply_ite (outcomeWithDatapath d)]
  rfl

theorem hostWrite_withDatapath (off : Offset) (width : Nat) (v : Word) :
    hostWrite off width v (s.withDatapath d) = outcomeWithDatapath d (hostWrite off width v s) := by
  simp only [hostWrite, memWrite_withDatapath, apply_ite (outcomeWithDatapath d)]
  rfl

theorem pollStatus_withDatapath (rest : List HostOp) :
    pollStatus rest (s.withDatapath d) = (pollStatus rest s).withDatapath d := by
  simp only [pollStatus_eq, State.withDatapath_core, CoreState.withDatapath_busy, apply_ite (State.withDatapath d)]
  rfl

/-- The host's step neither reads nor writes the datapath. -/
theorem hostTurn_withDatapath : hostTurn (s.withDatapath d) = outcomeWithDatapath d (hostTurn s) := by
  unfold hostTurn
  rw [State.withDatapath_program]
  cases s.program with
  | nil => rfl
  | cons op rest =>
    cases op with
    | read off width => exact hostRead_withDatapath d { s with program := rest } off width
    | write off width v => exact hostWrite_withDatapath d { s with program := rest } off width v
    | wait => exact congrArg Host.Outcome.next (pollStatus_withDatapath d s rest)

/-- With nothing pending the datapath stays as it was put; a completion leaves the free value it takes anyway. -/
theorem coreTurn_withDatapath : ∃ d', coreTurn (s.withDatapath d) = (coreTurn s).withDatapath d' := by
  cases pending : s.core.pend with
  | none => exact ⟨d, by rw [coreTurn_idle pending, coreTurn_idle (by simpa using pending)]⟩
  | expand kb =>
    exact ⟨(coreTurn s).core.datapath, by
      rw [State.withDatapath_self, coreTurn_expand pending]
      exact coreTurn_expand pending⟩
  | encrypt m0 m1 =>
    exact ⟨(coreTurn s).core.datapath, by
      rw [State.withDatapath_self, coreTurn_encrypt pending]
      exact coreTurn_encrypt pending⟩
  | decrypt c0 c1 =>
    exact ⟨(coreTurn s).core.datapath, by
      rw [State.withDatapath_self, coreTurn_decrypt pending]
      exact coreTurn_decrypt pending⟩

/-- A reset forgets the datapath. -/
theorem resetTurn_withDatapath : resetTurn (s.withDatapath d) = resetTurn s := rfl

end

/-- The commuting step: from another datapath working state the step goes on where it did, and ends in the same state
but for the datapath. -/
theorem step_withDatapath {s t : State} (d : Datapath) (h : step s = .next t) :
    ∃ d', step (s.withDatapath d) = .next (t.withDatapath d') := by
  cases turn : whoseTurn s with
  | host =>
    rw [step_host turn] at h
    rw [step_host (by simpa using turn), takeTurn_withDatapath, hostTurn_withDatapath, h]
    exact ⟨d, rfl⟩
  | core =>
    rw [step_core turn] at h
    obtain ⟨d', hd'⟩ := coreTurn_withDatapath d (takeTurn s)
    rw [step_core (by simpa using turn), takeTurn_withDatapath, hd']
    cases h
    exact ⟨d', rfl⟩
  | reset =>
    rw [step_reset turn] at h
    rw [step_reset (by simpa using turn), takeTurn_withDatapath, resetTurn_withDatapath, h]
    exact ⟨t.core.datapath, rfl⟩

/-- The two machines are equal but for the datapath working state. -/
def EqualButDatapath (s s' : State) : Prop := ∃ d, s' = s.withDatapath d

theorem step_simulates_butDatapath (s s' t : State) (hs : EqualButDatapath s s') (h : step s = .next t) :
    ∃ t', step s' = .next t' ∧ EqualButDatapath t t' := by
  obtain ⟨d, rfl⟩ := hs
  obtain ⟨d', hd'⟩ := step_withDatapath d h
  exact ⟨_, hd', d', rfl⟩

/-- Settles O50: being equal but for the datapath is carried on by every step, hence by every run. -/
theorem datapathIsNeverObserved : Obligations.DatapathIsNeverObserved := by
  intro s d n t h
  have start : EqualButDatapath s (s.withDatapath d) := ⟨d, rfl⟩
  obtain ⟨_, run, d', rfl⟩ := runSteps_simulates step_simulates_butDatapath start h
  exact ⟨d', run⟩

variable {s t : State}

/-! ### Which register a write reaches -/

theorem regAt_eq_cmd {off : Offset} (aligned : off.toNat % 4 = 0) (h : regAt off = .cmd) : off = 0x20#8 := by
  unfold regAt at h
  split_ifs at h
  bv_omega

theorem regAt_eq_status {off : Offset} (aligned : off.toNat % 4 = 0) (h : regAt off = .status) : off = 0x24#8 := by
  unfold regAt at h
  split_ifs at h
  bv_omega

/-! ### STATUS, bit by bit (R18, R24, R25) -/

/-- STATUS bit by bit: each field of R18's concatenation at its place, with zeros above the last. -/
theorem statusWord_getLsbD (c : CoreState) {k : Nat} (hk : k < 32) :
    c.statusWord.getLsbD k = match k with
      | 0 => c.busy
      | 1 => c.tv
      | 2 => false
      | 3 => c.err
      | k + 4 => if k < 4 then c.errcode.getLsbD k else c.lastop.getLsbD (k - 4) := by
  unfold CoreState.statusWord
  simp only [BitVec.getLsbD_setWidth, BitVec.getLsbD_append, hk]
  match k with
  | 0 | 1 | 2 | 3 => simp
  | k + 4 => simp

/-- ERRCODE is the field above ERR, LASTOP the one above ERRCODE. -/
theorem statusWord_getLsbD_add_four (c : CoreState) {k : Nat} (hk : k < 28) :
    c.statusWord.getLsbD (4 + k) = if k < 4 then c.errcode.getLsbD k else c.lastop.getLsbD (k - 4) := by
  rw [Nat.add_comm, statusWord_getLsbD c (by omega)]

theorem statusWord_errcode (c : CoreState) : c.statusWord.extractLsb' 4 4 = c.errcode := by
  apply BitVec.eq_of_getLsbD_eq
  intro k hk
  rw [BitVec.getLsbD_extractLsb', statusWord_getLsbD_add_four c (by omega)]
  simp [hk]

theorem statusWord_lastop (c : CoreState) : c.statusWord.extractLsb' 8 4 = c.lastop := by
  apply BitVec.eq_of_getLsbD_eq
  intro k hk
  rw [BitVec.getLsbD_extractLsb', show 8 + k = 4 + (4 + k) by omega, statusWord_getLsbD_add_four c (by omega)]
  simp [hk]

theorem statusWord_reserved (c : CoreState) : c.statusWord.extractLsb' 12 20 = 0 := by
  apply BitVec.eq_of_getLsbD_eq
  intro k hk
  have beyond : c.lastop.getLsbD (8 + k - 4) = false := BitVec.getLsbD_of_ge _ _ (by omega)
  rw [BitVec.getLsbD_extractLsb', show 12 + k = 4 + (8 + k) by omega, statusWord_getLsbD_add_four c (by omega)]
  simp [beyond, show ¬ 8 + k < 4 by omega]

theorem busy_eq_decide (c : CoreState) : c.busy = decide (c.pend ≠ .none) := by
  rw [Bool.eq_iff_iff, decide_eq_true_iff, CoreState.busy_eq_true]

/-- A write to STATUS reaches no field but ERR and ERRCODE. -/
theorem CoreState.writeStatus_frame (c : CoreState) (v : Word) :
    c.writeStatus v = { c with err := (c.writeStatus v).err, errcode := (c.writeStatus v).errcode } := by
  unfold CoreState.writeStatus; split <;> rfl

/-- Settles O31, from the bits of STATUS and the frame of a write to it. -/
theorem statusLayout : Obligations.StatusLayout := by
  refine ⟨by decide, CoreState.writeStatus_frame, fun c => ⟨?_, ?_, ?_, ?_, ?_, ?_, ?_⟩⟩
  · rw [statusWord_bit_zero, busy_eq_decide]
  · exact statusWord_getLsbD c (by decide)
  · exact statusWord_getLsbD c (by decide)
  · exact statusWord_getLsbD c (by decide)
  · exact statusWord_errcode c
  · exact statusWord_lastop c
  · exact statusWord_reserved c

theorem step_writeStatus {v : Word} {rest : List HostOp} (turn : whoseTurn s = .host)
    (line : s.program = .write 0x24#8 4 v :: rest) :
    step s = .next ((afterLine s rest).withCore (s.core.writeStatus v)) := by
  rw [step_write turn line, hostWrite_defined (by decide)]
  rfl

/-- Settles O32: the write is `writeStatus`, by whether bit 3 is set. -/
theorem statusWriteClearsTheError : Obligations.StatusWriteClearsTheError := by
  intro s v rest turn line
  rw [step_writeStatus turn line, CoreState.writeStatus]
  refine ⟨fun set => ?_, fun clear => ?_⟩
  · rw [if_pos set]; rfl
  · rw [if_neg (by rw [clear]; decide)]; rfl

/-! ### The table (R29) -/

/-- No host write changes the table. -/
theorem WriteMove.table_eq {off : Offset} {v : Word} {c d : CoreState} (move : WriteMove off v c d) : d.S = c.S := by
  cases move with
  | status => exact c.writeStatus_S v
  | rejected _ e => exact c.raiseCmdError_S e
  | key | din | ignored | expand | encrypt | decrypt => rfl

/-- Settles O41, over the moves of a step. -/
theorem onlyExpandCompletionWritesTheTable : Obligations.OnlyExpandCompletionWritesTheTable := by
  intro s t h
  cases step_cases h with
  | doneExpand kb turn pending => exact .inr ⟨kb, turn, pending, rfl⟩
  | write off v rest c _ _ _ move => exact .inl move.table_eq
  | read => exact .inl (by simp)
  | hostDone | pollAgain | pollDone | coreIdle | doneEncrypt | doneDecrypt | reset => exact .inl rfl

/-! ### The error fields (R21, R22) -/

/-- The codes that are recorded (R84). -/
theorem CmdError.code_cases (e : CmdError) : e.code = 1 ∨ e.code = 2 ∨ e.code = 3 := by
  cases e <;> decide

/-- Everything a step can do to ERR and ERRCODE: nothing, a reset, a clearing write to STATUS, or a write to CMD that
is rejected. -/
theorem step_error_cases (h : step s = .next t) :
    (t.core.err = s.core.err ∧ t.core.errcode = s.core.errcode) ∨
    (whoseTurn s = .reset ∧ t.core.err = false) ∨
    (whoseTurn s = .host ∧ (∃ v rest, s.program = .write 0x24#8 4 v :: rest ∧ v.getLsbD 3 = true) ∧
      t.core.err = false) ∨
    (whoseTurn s = .host ∧ (∃ w rest, s.program = .write 0x20#8 4 w :: rest) ∧
      ∃ e, t.core = s.core.raiseCmdError e) := by
  cases step_cases h with
  | reset turn => exact .inr (.inl ⟨turn, rfl⟩)
  | write off v rest c turn line aligned move =>
    cases move with
    | status at_off =>
      obtain rfl := regAt_eq_status aligned at_off
      cases bit : v.getLsbD 3 with
      | true => exact .inr (.inr (.inl ⟨turn, ⟨v, rest, line, bit⟩, by simp [CoreState.writeStatus_err, bit]⟩))
      | false =>
        exact .inl ⟨by simp only [State.withCore_core, CoreState.writeStatus_err, bit, Bool.not_false, Bool.and_true],
          by simp only [State.withCore_core, CoreState.writeStatus_errcode, bit]; rfl⟩
    | rejected at_off e =>
      obtain rfl := regAt_eq_cmd aligned at_off
      exact .inr (.inr (.inr ⟨turn, ⟨v, rest, line⟩, e, rfl⟩))
    | key | din | ignored | expand | encrypt | decrypt => exact .inl ⟨rfl, rfl⟩
  | read => exact .inl (by simp)
  | hostDone | pollAgain | pollDone | coreIdle | doneExpand | doneEncrypt | doneDecrypt => exact .inl ⟨rfl, rfl⟩

/-- Settles O45, over what a step can do to the error fields. -/
theorem errorIsSticky : Obligations.ErrorIsSticky := by
  intro s t h
  obtain ⟨hErr, hCode⟩ | ⟨turn, hErr⟩ | ⟨turn, ⟨v, rest, line, bit⟩, hErr⟩ | ⟨turn, line, e, hCore⟩ :=
    step_error_cases h
  · rw [hErr, hCode]
    exact ⟨fun set clear => absurd (set.symm.trans clear) (by decide), fun _ _ => rfl,
      fun clear set => absurd (set.symm.trans clear) (by decide)⟩
  · simp [hErr, turn]
  · exact ⟨fun _ _ => .inr ⟨turn, v, rest, line, bit⟩, by simp [hErr], by simp [hErr]⟩
  · rw [hCore]
    refine ⟨by simp, fun set _ => ?_, fun clear _ => ⟨turn, line, by simp, ?_⟩⟩
    · simp [CoreState.raiseCmdError_errcode, set]
    · simpa [CoreState.raiseCmdError_errcode, clear] using e.code_cases

end Sys2Proof.Machine

/-! ## The family 20_memory: the host's accesses to the register window, and their order -/

namespace Sys2Proof.Machine

variable {s t : State} {off : Offset}

/-! ### The register at an offset (R32) -/

theorem regAt_key {k : Nat} (h : k < 4) (at_off : off.toNat = 4 * k) : regAt off = .key ⟨k, h⟩ := by
  unfold regAt
  rw [dif_pos (by omega)]
  simp [at_off]

theorem regAt_din {k : Nat} (h : k < 2) (at_off : off.toNat = 0x10 + 4 * k) : regAt off = .din ⟨k, h⟩ := by
  unfold regAt
  rw [dif_neg (by omega), dif_pos (by omega)]
  simp [at_off]

theorem regAt_dout {k : Nat} (h : k < 2) (at_off : off.toNat = 0x18 + 4 * k) : regAt off = .dout ⟨k, h⟩ := by
  unfold regAt
  rw [dif_neg (by omega), dif_neg (by omega), dif_pos (by omega)]
  simp [at_off]

theorem regAt_cmd (at_off : off.toNat = 0x20) : regAt off = .cmd := by
  simp [regAt, at_off]

theorem regAt_status (at_off : off.toNat = 0x24) : regAt off = .status := by
  simp [regAt, at_off]

theorem regAt_table {i : Nat} (h : i < 26) (at_off : off.toNat = 0x40 + 4 * i) : regAt off = .table ⟨i, h⟩ := by
  unfold regAt
  rw [dif_neg (by omega), dif_neg (by omega), dif_neg (by omega), if_neg (by omega), if_neg (by omega),
    if_neg (by omega), dif_pos (by omega)]
  simp [at_off]

theorem regAt_reserved (at_off : 0x28 ≤ off.toNat ∧ off.toNat < 0x40 ∨ 0xA8 ≤ off.toNat) :
    regAt off = .reserved := by
  unfold regAt
  rw [dif_neg (by omega), dif_neg (by omega), dif_neg (by omega), if_neg (by omega), if_neg (by omega)]
  split_ifs
  · rfl
  · omega
  · rfl

/-! ### What a read answers, by the register it reaches (R38) -/

theorem memRead_key {n : Fin 4} (at_off : regAt off = .key n) (s : State) : memRead off s = (s.core.key[n], s) := by
  unfold memRead; rw [at_off]

theorem memRead_din {n : Fin 2} (at_off : regAt off = .din n) (s : State) : memRead off s = (s.core.din[n], s) := by
  unfold memRead; rw [at_off]

theorem memRead_dout_ready {n : Fin 2} (at_off : regAt off = .dout n) (ready : s.core.pend.transforming = false) :
    memRead off s = (s.core.dout[n], s) := by
  unfold memRead; simp [at_off, ready]

theorem memRead_dout_pending {n : Fin 2} (at_off : regAt off = .dout n) (pending : s.core.pend.transforming = true) :
    memRead off s = draw32 s := by
  unfold memRead; simp [at_off, pending]

theorem memRead_cmd (at_off : regAt off = .cmd) (s : State) : memRead off s = (0, s) := by
  unfold memRead; rw [at_off]

theorem memRead_status_at (at_off : regAt off = .status) (s : State) : memRead off s = (s.core.statusWord, s) := by
  unfold memRead; rw [at_off]

theorem memRead_table_valid {i : Fin 26} (at_off : regAt off = .table i) (valid : s.core.tv = true) :
    memRead off s = (s.core.S[i], s) := by
  unfold memRead; simp [at_off, valid]

theorem memRead_table_invalid {i : Fin 26} (at_off : regAt off = .table i) (invalid : s.core.tv = false) :
    memRead off s = draw32 s := by
  unfold memRead; simp [at_off, invalid]

theorem memRead_reserved (at_off : regAt off = .reserved) (s : State) : memRead off s = (0, s) := by
  unfold memRead; rw [at_off]

/-- A read moves on nothing but the draw counter. -/
theorem memRead_frame (off : Offset) (s : State) :
    (memRead off s).2 = { s with draws := (memRead off s).2.draws } := by
  rw [← memRead_core off s, ← memRead_program off s, ← memRead_sched off s, ← memRead_readLog off s]

theorem Pending.transforming_iff {p : Pending} :
    p.transforming = true ↔ ∃ m0 m1, p = .encrypt m0 m1 ∨ p = .decrypt m0 m1 := by
  cases p <;> simp [Pending.transforming]

/-! ### What a write does, by the register it reaches (R39) -/

theorem memWrite_key {n : Fin 4} (at_off : regAt off = .key n) (v : Word) (s : State) :
    memWrite off v s = .next (s.withCore (s.core.writeKey n v)) := by
  unfold memWrite; rw [at_off]

theorem memWrite_din {n : Fin 2} (at_off : regAt off = .din n) (v : Word) (s : State) :
    memWrite off v s = .next (s.withCore (s.core.writeDin n v)) := by
  unfold memWrite; rw [at_off]

theorem memWrite_dout {n : Fin 2} (at_off : regAt off = .dout n) (v : Word) (s : State) :
    memWrite off v s = .next s := by
  unfold memWrite; rw [at_off]

theorem memWrite_cmd (at_off : regAt off = .cmd) (v : Word) (s : State) :
    memWrite off v s = submitCommand v s := by
  unfold memWrite; rw [at_off]

theorem memWrite_status (at_off : regAt off = .status) (v : Word) (s : State) :
    memWrite off v s = .next (s.withCore (s.core.writeStatus v)) := by
  unfold memWrite; rw [at_off]

theorem memWrite_table {i : Fin 26} (at_off : regAt off = .table i) (v : Word) (s : State) :
    memWrite off v s = .next s := by
  unfold memWrite; rw [at_off]

theorem memWrite_reserved (at_off : regAt off = .reserved) (v : Word) (s : State) :
    memWrite off v s = .next s := by
  unfold memWrite; rw [at_off]

/-! ### The step of an aligned access -/

theorem step_read_aligned {rest : List HostOp} (turn : whoseTurn s = .host) (line : s.program = .read off 4 :: rest)
    (aligned : off.toNat % 4 = 0) :
    step s = .next ((memRead off (afterLine s rest)).2.logRead off (memRead off (afterLine s rest)).1) := by
  rw [step_read turn line, hostRead_defined aligned]

theorem step_write_aligned {v : Word} {rest : List HostOp} (turn : whoseTurn s = .host)
    (line : s.program = .write off 4 v :: rest) (aligned : off.toNat % 4 = 0) :
    step s = memWrite off v (afterLine s rest) := by
  rw [step_write turn line, hostWrite_defined aligned]

/-! ### Polling: the run to the read of a result (R42, R54)

While an operation is pending every turn is a poll or the completion; after it the core stays as it is until the host
has left WAIT and read. Each step uses up a turn of the schedule or brings the host nearer to the read. -/

/-- Progress within a bound: a step from a state `k` away from the goal reaches the goal or comes nearer to it. Then
the goal is reached within `k + 1` steps. -/
theorem runSteps_reaches {P : State → Nat → Prop} {Q : State → Prop}
    (progress : ∀ s k, P s k → ∃ t, step s = .next t ∧ (Q t ∨ ∃ j < k, P t j))
    {k : Nat} {s : State} (hs : P s k) : ∃ n t, n ≤ k + 1 ∧ runSteps n s = .next t ∧ Q t := by
  induction k using Nat.strong_induction_on generalizing s with
  | _ k ih =>
    obtain ⟨u, hu, hQ | ⟨j, hj, hP⟩⟩ := progress s k hs
    · exact ⟨1, u, by omega, runSteps_succ 0 hu, hQ⟩
    · obtain ⟨n, t, hn, run, hQ⟩ := ih j hj hP
      exact ⟨n + 1, t, by omega, (runSteps_succ n hu).trans run, hQ⟩

/-- Every machine with this core answers a read at `off` with `v`, and draws nothing. -/
def CoreState.Answers (off : Offset) (v : Word) (c : CoreState) : Prop :=
  ∀ s : State, s.core = c → memRead off s = (v, s)

/-- Every machine with this core answers so once its pending operation has completed. -/
def CoreState.WillAnswer (off : Offset) (v : Word) (c : CoreState) : Prop :=
  ∀ s : State, s.core = c → (coreTurn s).core.Answers off v

theorem answers_dout {c : CoreState} {v : Word} {k : Nat} (h : k < 2) (at_off : off.toNat = 0x18 + 4 * k)
    (idle : c.pend = .none) (value : c.dout[k] = v) : c.Answers off v := by
  rintro s rfl
  rw [memRead_dout_ready (regAt_dout h at_off) (by rw [idle]; rfl), ← value]
  rfl

theorem answers_table {c : CoreState} {v : Word} {i : Nat} (h : i < 26) (at_off : off.toNat = 0x40 + 4 * i)
    (valid : c.tv = true) (value : c.S[i] = v) : c.Answers off v := by
  rintro s rfl
  rw [memRead_table_valid (regAt_table h at_off) valid, ← value]
  rfl

/-- `v` is the word of the block `M` that stands at `off` when DOUT holds `M` (R16, R32). -/
def DoutWord (off : Offset) (v : Word) (M : Block) : Prop :=
  off = 0x18#8 ∧ v = M.1 ∨ off = 0x1C#8 ∧ v = M.2

theorem DoutWord.aligned {v : Word} {M : Block} (result : DoutWord off v M) : off.toNat % 4 = 0 := by
  obtain ⟨rfl, _⟩ | ⟨rfl, _⟩ := result <;> rfl

/-- A word of DOUT, where the completion writes the block `M` there. -/
theorem willAnswer_dout {c : CoreState} {v : Word} {M : Block} (result : DoutWord off v M)
    (written : ∀ s : State, s.core = c → (coreTurn s).core.dout = #v[M.1, M.2]) : c.WillAnswer off v := by
  intro s hs
  obtain ⟨rfl, rfl⟩ | ⟨rfl, rfl⟩ := result
  · exact answers_dout (k := 0) (by decide) rfl (coreTurn_pend s) (by simp [written s hs])
  · exact answers_dout (k := 1) (by decide) rfl (coreTurn_pend s) (by simp [written s hs])

theorem willAnswer_encrypt {c : CoreState} {v m0 m1 : Word} (pending : c.pend = .encrypt m0 m1)
    (result : DoutWord off v (encryptBlock (m0, m1) c.S)) : c.WillAnswer off v :=
  willAnswer_dout result (by rintro s rfl; rw [coreTurn_encrypt pending]; simp)

theorem willAnswer_decrypt {c : CoreState} {v c0 c1 : Word} (pending : c.pend = .decrypt c0 c1)
    (result : DoutWord off v (decryptBlock (c0, c1) c.S)) : c.WillAnswer off v :=
  willAnswer_dout result (by rintro s rfl; rw [coreTurn_decrypt pending]; simp)

theorem willAnswer_expand {c : CoreState} {v : Word} {kb : KeyBytes} (pending : c.pend = .expand kb) {i : Nat}
    (h : i < 26) (at_off : off.toNat = 0x40 + 4 * i) (result : v = (expandKey kb)[i]) : c.WillAnswer off v := by
  rintro s rfl
  rw [coreTurn_expand pending]
  exact answers_table h at_off (by simp) (by simp [result])

/-- The three phases of the run, with the number of steps that can still come before the read. -/
inductive Polling (off : Offset) (v : Word) (rest : List HostOp) : State → Nat → Prop where
  | pending {s : State} (line : s.program = .wait :: .read off 4 :: rest) (busy : s.core.pend ≠ .none)
      (answer : s.core.WillAnswer off v) (noReset : .reset ∉ s.sched) : Polling off v rest s (s.sched.length + 2)
  | completed {s : State} (line : s.program = .wait :: .read off 4 :: rest) (idle : s.core.pend = .none)
      (answer : s.core.Answers off v) (noReset : .reset ∉ s.sched) : Polling off v rest s (s.sched.length + 1)
  | reading {s : State} (line : s.program = .read off 4 :: rest) (idle : s.core.pend = .none)
      (answer : s.core.Answers off v) (noReset : .reset ∉ s.sched) : Polling off v rest s s.sched.length

theorem whoseTurn_ne_reset (noReset : .reset ∉ s.sched) : whoseTurn s ≠ .reset := by
  unfold whoseTurn
  split
  · next t ts hs => rintro rfl; simp [hs] at noReset
  · split <;> decide

/-- A turn of the host while the core is busy, and a turn of the core while it is idle, is one the schedule gives. -/
theorem sched_tail_lt (turn : whoseTurn s ≠ if s.core.busy then .core else .host) :
    s.sched.tail.length < s.sched.length := by
  cases hs : s.sched with
  | nil => simp [whoseTurn, hs] at turn
  | cons t ts => simp

theorem step_poll_busy {rest : List HostOp} (turn : whoseTurn s = .host) (line : s.program = .wait :: rest)
    (busy : s.core.pend ≠ .none) :
    step s = .next ((takeTurn s).logRead (offsetOf .status) s.core.statusWord) := by
  rw [step_wait turn line, pollStatus_eq, if_pos (by simpa using busy)]; rfl

theorem step_poll_idle {rest : List HostOp} (turn : whoseTurn s = .host) (line : s.program = .wait :: rest)
    (idle : s.core.pend = .none) :
    step s = .next ((afterLine s rest).logRead (offsetOf .status) s.core.statusWord) := by
  rw [step_wait turn line, pollStatus_eq, if_neg (by simpa using idle)]; rfl

theorem step_core_idle (turn : whoseTurn s = .core) (idle : s.core.pend = .none) : step s = .next (takeTurn s) := by
  rw [step_core turn, coreTurn_idle (by simpa using idle)]

/-- The host has gone past the read, which answered `v`. -/
def ReadDone (off : Offset) (v : Word) (rest : List HostOp) (t : State) : Prop :=
  t.program = rest ∧ t.readLog.head? = some { off := off, value := v }

theorem step_read_answers {v : Word} {rest : List HostOp} (turn : whoseTurn s = .host)
    (line : s.program = .read off 4 :: rest) (aligned : off.toNat % 4 = 0) (answer : s.core.Answers off v) :
    ∃ t, step s = .next t ∧ ReadDone off v rest t := by
  rw [step_read_aligned turn line aligned, answer (afterLine s rest) rfl]
  exact ⟨_, rfl, rfl, rfl⟩

theorem Polling.progress {v : Word} {rest : List HostOp} (aligned : off.toNat % 4 = 0) (s : State) (k : Nat)
    (h : Polling off v rest s k) :
    ∃ t, step s = .next t ∧ (ReadDone off v rest t ∨ ∃ j < k, Polling off v rest t j) := by
  have tailNoReset (noReset : .reset ∉ s.sched) : .reset ∉ s.sched.tail := fun h => noReset (List.mem_of_mem_tail h)
  have tailLe : s.sched.tail.length ≤ s.sched.length := by simp
  cases h with
  | pending line busy answer noReset =>
    cases turn : whoseTurn s with
    | host =>
      have shorter : s.sched.tail.length < s.sched.length := sched_tail_lt (by simp [turn, busy])
      exact ⟨_, step_poll_busy turn line busy, .inr ⟨_, by simpa using shorter,
        .pending line busy answer (tailNoReset noReset)⟩⟩
    | core =>
      refine ⟨_, step_core turn, .inr ⟨_, ?_, .completed (by simpa using line) (coreTurn_pend _)
        (answer (takeTurn s) rfl) (by simpa using tailNoReset noReset)⟩⟩
      rw [coreTurn_sched, takeTurn_sched]
      omega
    | reset => exact absurd turn (whoseTurn_ne_reset noReset)
  | completed line idle answer noReset =>
    cases turn : whoseTurn s with
    | host =>
      exact ⟨_, step_poll_idle turn line idle, .inr ⟨_, Nat.lt_succ_of_le tailLe,
        .reading rfl idle answer (tailNoReset noReset)⟩⟩
    | core =>
      have shorter : s.sched.tail.length < s.sched.length := sched_tail_lt (by simp [turn, idle])
      exact ⟨_, step_core_idle turn idle, .inr ⟨_, Nat.succ_lt_succ shorter,
        .completed line idle answer (tailNoReset noReset)⟩⟩
    | reset => exact absurd turn (whoseTurn_ne_reset noReset)
  | reading line idle answer noReset =>
    cases turn : whoseTurn s with
    | host =>
      obtain ⟨t, ht, done⟩ := step_read_answers turn line aligned answer
      exact ⟨t, ht, .inl done⟩
    | core =>
      have shorter : s.sched.tail.length < s.sched.length := sched_tail_lt (by simp [turn, idle])
      exact ⟨_, step_core_idle turn idle, .inr ⟨_, shorter, .reading line idle answer (tailNoReset noReset)⟩⟩
    | reset => exact absurd turn (whoseTurn_ne_reset noReset)

/-- A host that polls comes to its read within the schedule's length and three steps, and reads what the completion
left. -/
theorem polling_reads {v : Word} {rest : List HostOp} (line : s.program = .wait :: .read off 4 :: rest)
    (noReset : ∀ x ∈ s.sched, x ≠ .reset) (busy : s.core.pend ≠ .none) (aligned : off.toNat % 4 = 0)
    (answer : s.core.WillAnswer off v) :
    ∃ n t, n ≤ s.sched.length + 3 ∧ runSteps n s = .next t ∧ ReadDone off v rest t :=
  runSteps_reaches (Polling.progress aligned) (.pending line busy answer fun h => noReset _ h rfl)

/-- Settles O53: each of the three operations will answer the word of its result, and a host that polls reads it. -/
theorem pollingSynchronises : Obligations.PollingSynchronises := by
  intro s off value rest line noReset h
  obtain ⟨m0, m1, pending, result⟩ | ⟨c0, c1, pending, result⟩ | ⟨kb, pending, i, hi, at_off, result⟩ := h
  · exact polling_reads line noReset (by simp [pending]) (DoutWord.aligned result)
      (willAnswer_encrypt pending result)
  · exact polling_reads line noReset (by simp [pending]) (DoutWord.aligned result)
      (willAnswer_decrypt pending result)
  · exact polling_reads line noReset (by simp [pending]) (by omega)
      (willAnswer_expand pending hi at_off result)

/-! ### Reads and writes by offset -/

/-- Settles O27: the read's frame, then its answer by the register at the offset. -/
theorem hostReadAnswers : Obligations.HostReadAnswers := by
  intro s off rest turn line aligned
  refine ⟨(memRead off (afterLine s rest)).1, (memRead off (afterLine s rest)).2.draws, ?_, fun k h at_off => ?_,
    fun k h at_off => ?_, fun k h at_off => ⟨fun ⟨noEnc, noDec⟩ => ?_, fun pending => ?_⟩, fun at_off => ?_,
    fun at_off => ?_, fun i h at_off => ⟨fun valid => ?_, fun invalid => ?_⟩, fun at_off => ?_⟩
  · rw [step_read_aligned turn line aligned, memRead_frame]; rfl
  · rw [memRead_key (regAt_key h at_off)]; exact ⟨rfl, rfl⟩
  · rw [memRead_din (regAt_din h at_off)]; exact ⟨rfl, rfl⟩
  · have ready : s.core.pend.transforming = false := by
      rw [Bool.eq_false_iff, Ne, Pending.transforming_iff]
      rintro ⟨m0, m1, h | h⟩
      · exact noEnc m0 m1 h
      · exact noDec m0 m1 h
    rw [memRead_dout_ready (s := afterLine s rest) (regAt_dout h at_off) ready]; exact ⟨rfl, rfl⟩
  · rw [memRead_dout_pending (s := afterLine s rest) (regAt_dout h at_off) (Pending.transforming_iff.2 pending)]
    exact ⟨rfl, rfl⟩
  · rw [memRead_cmd (regAt_cmd at_off)]; exact ⟨rfl, rfl⟩
  · rw [memRead_status_at (regAt_status at_off)]; exact ⟨rfl, rfl⟩
  · rw [memRead_table_valid (s := afterLine s rest) (regAt_table h at_off) valid]; exact ⟨rfl, rfl⟩
  · rw [memRead_table_invalid (s := afterLine s rest) (regAt_table h at_off) invalid]; exact ⟨rfl, rfl⟩
  · rw [memRead_reserved (regAt_reserved at_off)]; exact ⟨rfl, rfl⟩

/-- Settles O28: the write, by the register at the offset. -/
theorem hostWriteEffects : Obligations.HostWriteEffects := by
  intro s off v rest turn line aligned
  rw [step_write_aligned turn line aligned]
  refine ⟨?_, ?_, ?_, ?_, ?_, ?_, ?_⟩
  · exact fun k h at_off => memWrite_key (regAt_key h at_off) v _
  · exact fun k h at_off => memWrite_din (regAt_din h at_off) v _
  · rintro (at_off | at_off)
    · exact memWrite_dout (regAt_dout (k := 0) (by decide) at_off) v _
    · exact memWrite_dout (regAt_dout (k := 1) (by decide) at_off) v _
  · exact fun at_off => memWrite_cmd (regAt_cmd at_off) v _
  · exact fun at_off => memWrite_status (regAt_status at_off) v _
  · exact fun at_off => memWrite_table (regAt_table (i := (off.toNat - 0x40) / 4) (by omega) (by omega)) v _
  · exact fun at_off => memWrite_reserved (regAt_reserved at_off) v _

/-! ### Faults (R33, R89) -/

theorem accessDefined_eq_false (off : Offset) (width : Nat) :
    accessDefined off width = false ↔ width ≠ 4 ∨ off.toNat % 4 ≠ 0 := by
  rw [Bool.eq_false_iff, Ne, accessDefined_iff]
  tauto

theorem hostRead_eq_fault (width : Nat) (s : State) (r : Fault) :
    hostRead off width s = .fault r ↔ (width ≠ 4 ∨ off.toNat % 4 ≠ 0) ∧ r = .busAccessError off width := by
  rw [← accessDefined_eq_false, hostRead]
  cases accessDefined off width <;> simp [eq_comm]

theorem hostWrite_eq_fault (width : Nat) (v : Word) (s : State) (r : Fault) :
    hostWrite off width v s = .fault r ↔ (width ≠ 4 ∨ off.toNat % 4 ≠ 0) ∧ r = .busAccessError off width := by
  obtain ⟨t, ht⟩ := memWrite_goes_on off v s
  rw [← accessDefined_eq_false, hostWrite, ht]
  cases accessDefined off width <;> simp [eq_comm]

/-- Settles O29: only a host's access can fault, by the line the host is at. -/
theorem onlyUndefinedAccessesFault : Obligations.OnlyUndefinedAccessesFault := by
  intro s r
  cases turn : whoseTurn s with
  | core => simp [step_core turn]
  | reset => simp [step_reset turn]
  | host =>
    cases line : s.program with
    | nil => simp [step_host turn, hostTurn, line]
    | cons op rest =>
      cases op with
      | wait => simp [step_wait turn line]
      | read off width => simp [step_read turn line, hostRead_eq_fault]
      | write off width v => simp [step_write turn line, hostWrite_eq_fault]

/-! ### Commands: a word that decodes, and an accepted command -/

theorem submitCommand_busy (busy : s.core.pend ≠ .none) (w : Word) :
    submitCommand w s = .next (raiseCmdError .busyCmd s) := by
  unfold submitCommand; rw [if_pos (by simpa using busy)]

theorem exec_busy (busy : s.core.pend ≠ .none) (i : Instr) : exec i s = .next (raiseCmdError .busyCmd s) := by
  cases i <;> exact acceptCommand_busy busy

/-- Submitting a command's word is the command: each of them answers BUSY_CMD by itself. -/
theorem submitCommand_of_decode {w : Word} {i : Instr} (word : decode w = .ok i) (s : State) :
    submitCommand w s = exec i s := by
  by_cases idle : s.core.pend = .none
  · unfold submitCommand
    rw [if_neg (by simpa using idle), word]
  · rw [submitCommand_busy idle, exec_busy idle]

theorem decode_encode (i : Instr) : decode (encode i) = .ok i := by
  cases i <;> decide

/-- An accepted command leaves its operation pending. -/
theorem exec_accepted {i : Instr} (idle : s.core.pend = .none) (table : i ≠ .expand → s.core.tv = true) :
    ∃ t, exec i s = .next t ∧ t.core.pend ≠ .none := by
  cases i with
  | expand => exact ⟨_, acceptCommand_idle idle (by simp), by simp⟩
  | encrypt => exact ⟨_, acceptCommand_idle idle fun _ => table (by decide), by simp⟩
  | decrypt => exact ⟨_, acceptCommand_idle idle fun _ => table (by decide), by simp⟩

theorem step_writeCmd {w : Word} {rest : List HostOp} (turn : whoseTurn s = .host)
    (line : s.program = .write 0x20#8 4 w :: rest) : step s = submitCommand w (afterLine s rest) := by
  rw [step_write_aligned turn line (by decide), memWrite_cmd (regAt_cmd rfl)]

/-! ### Repeated accesses (R40) -/

theorem hostRead_core {width : Nat} (h : hostRead off width s = .next t) : t.core = s.core := by
  unfold hostRead at h
  split at h
  · cases h; simp
  · cases h

/-- A write that answers a next state is an aligned one. -/
theorem aligned_of_step_write {v : Word} {rest : List HostOp} (turn : whoseTurn s = .host)
    (line : s.program = .write off 4 v :: rest) (h : step s = .next t) : off.toNat % 4 = 0 := by
  by_contra misaligned
  rw [step_write turn line, (hostWrite_eq_fault 4 v _ _).2 ⟨.inr misaligned, rfl⟩] at h
  cases h

theorem regAt_input_or_status (h : off.toNat < 0x18 ∨ off.toNat = 0x24) :
    (∃ n, regAt off = .key n) ∨ (∃ n, regAt off = .din n) ∨ regAt off = .status := by
  obtain input | status := h
  · by_cases key : off.toNat < 0x10
    · exact .inl ⟨_, dif_pos key⟩
    · exact .inr (.inl ⟨_, (dif_neg key).trans (dif_pos input)⟩)
  · exact .inr (.inr (regAt_status status))

theorem CoreState.writeStatus_idem (v : Word) (c : CoreState) :
    (c.writeStatus v).writeStatus v = c.writeStatus v := by
  unfold CoreState.writeStatus; split <;> rfl

/-- A write to KEY, DIN or STATUS acts on the core alone, and acting twice is acting once. -/
theorem memWrite_idem (h : off.toNat < 0x18 ∨ off.toNat = 0x24) (v : Word) :
    ∃ f : CoreState → CoreState,
      (∀ s : State, memWrite off v s = .next (s.withCore (f s.core))) ∧ ∀ c, f (f c) = f c := by
  obtain ⟨n, at_off⟩ | ⟨n, at_off⟩ | at_off := regAt_input_or_status h
  · exact ⟨_, memWrite_key at_off v, fun c => by simp [CoreState.writeKey]⟩
  · exact ⟨_, memWrite_din at_off v, fun c => by simp [CoreState.writeDin]⟩
  · exact ⟨_, memWrite_status at_off v, CoreState.writeStatus_idem v⟩

/-- Settles O30: a read keeps the core, an input or STATUS write is idempotent, an accepted command makes the core
busy. -/
theorem repeatedAccesses : Obligations.RepeatedAccesses := by
  refine ⟨?_, ?_, ?_⟩
  · intro s t off width rest turn line h
    rw [step_read turn line] at h
    simpa using hostRead_core h
  · intro s t u off v rest rest' turn line inputs h hCore turn' line'
    have aligned := aligned_of_step_write turn line h
    obtain ⟨f, write, idem⟩ := memWrite_idem inputs v
    rw [step_write_aligned turn line aligned, write] at h
    rw [step_write_aligned turn' line' aligned, write]
    cases h
    exact ⟨_, rfl, by simp [hCore, idem]⟩
  · intro s t u w i rest rest' turn line word idle table h hCore turn' line'
    rw [step_writeCmd turn line, submitCommand_of_decode word] at h
    obtain ⟨t', accepted, busy⟩ := exec_accepted (s := afterLine s rest) idle table
    cases h.symm.trans accepted
    have busy' : (afterLine u rest').core.pend ≠ .none := by rwa [afterLine_core, hCore]
    rw [step_writeCmd turn' line', submitCommand_busy busy']
    exact ⟨_, rfl, congrArg (CoreState.raiseCmdError .busyCmd) hCore⟩

/-- Settles O4: the placed write submits a word that decodes to the command. -/
theorem placedCommandWordRunsNext : Obligations.PlacedCommandWordRunsNext := by
  intro s i
  have line : (s.withFetchWord 32 (encode i).toNat).program = .write 0x20#8 4 (encode i) :: s.program := by
    cases i <;> rfl
  rw [step_writeCmd rfl line, submitCommand_of_decode (decode_encode i)]
  rfl

end Sys2Proof.Machine

/-! ## The family 30_encoding: the fields of a command word (R47), and the decoder as the encoder's inverse (R49) -/

namespace Sys2Proof.Machine

/-! ### The commands, one by one -/

theorem exists_instr {P : Instr → Prop} : (∃ i, P i) ↔ P .expand ∨ P .encrypt ∨ P .decrypt := by
  constructor
  · rintro ⟨_ | _ | _, h⟩
    exacts [.inl h, .inr (.inl h), .inr (.inr h)]
  · rintro (h | h | h)
    exacts [⟨_, h⟩, ⟨_, h⟩, ⟨_, h⟩]

/-- The law of a command's word, for every command. -/
theorem commandWord_law (i : Instr) : Laws.CommandWord.Statement i := by
  cases i with
  | expand => exact Laws.CommandWord.expand
  | encrypt => exact Laws.CommandWord.encrypt
  | decrypt => exact Laws.CommandWord.decrypt

/-! ### The two fields of a word -/

section

variable (w : Word)

/-- A command word is its two fields put together (R47). -/
theorem rsvField_append_opcField : rsvField w ++ opcField w = w :=
  BitVec.extractLsb'_append_extractLsb'

theorem zero_append_rsvField : (0 : BitVec 4) ++ rsvField w = w >>> 4 :=
  (BitVec.ushiftRight_eq_extractLsb'_of_lt (by decide)).symm

theorem zero_append_opcField : (0 : BitVec 28) ++ opcField w = w &&& 0xF := by
  calc 0#28 ++ opcField w
      = (rsvField w &&& 0#28) ++ (opcField w &&& BitVec.allOnes 4) := by rw [BitVec.and_zero, BitVec.and_allOnes]
    _ = (rsvField w ++ opcField w) &&& (0#28 ++ BitVec.allOnes 4) := BitVec.and_append.symm
    _ = w &&& 0xF := by rw [rsvField_append_opcField]; rfl

end

section

variable {w : Word} {i : Instr}

theorem rsvField_eq_zero_iff : rsvField w = 0 ↔ w >>> 4 = 0 := by
  rw [← zero_append_rsvField, show (0 : Word) = (0 : BitVec 4) ++ (0 : BitVec 28) from rfl,
    BitVec.append_right_inj]

theorem opcField_eq_iff : opcField w = opcodeOf i ↔ w &&& 0xF = encode i := by
  rw [← zero_append_opcField, encode, BitVec.append_right_inj]

/-- The word of a command is the one word with `RSV` 0 and the command's code in `OPC` (R47, R48). -/
theorem eq_encode_iff : w = encode i ↔ rsvField w = 0 ∧ opcField w = opcodeOf i := by
  constructor
  · rintro rfl
    obtain ⟨rsv, opc, -⟩ := commandWord_law i
    exact ⟨rsv, opc⟩
  · rintro ⟨rsv, opc⟩
    rw [← rsvField_append_opcField w, rsv, opc, encode]

/-! ### The decoder against the encoder -/

/-- What the decoder has checked of a word that it takes. -/
theorem fields_of_decode (h : decode w = .ok i) : rsvField w = 0 ∧ opcField w = opcodeOf i := by
  unfold decode at h
  split_ifs at h with rsv expand encrypt decrypt <;> cases h
  · exact ⟨not_not.1 rsv, expand⟩
  · exact ⟨not_not.1 rsv, encrypt⟩
  · exact ⟨not_not.1 rsv, decrypt⟩

theorem decode_eq_ok_iff : decode w = .ok i ↔ w = encode i := by
  constructor
  · exact fun h => eq_encode_iff.2 (fields_of_decode h)
  · rintro rfl
    exact decode_encode i

theorem exists_decode_eq_error_iff : (∃ e, decode w = .error e) ↔ ¬ ∃ i, w = encode i := by
  simp only [← decode_eq_ok_iff]
  cases decode w <;> simp

theorem commandWordWf_iff : commandWordWf w = true ↔ ∃ i, w = encode i := by
  have codes : (∃ i, opcField w = opcodeOf i) ↔ (w &&& 0xF = 1 ∨ w &&& 0xF = 2 ∨ w &&& 0xF = 3) := by
    simp only [opcField_eq_iff]
    exact exists_instr
  simp only [eq_encode_iff, exists_and_left, codes, rsvField_eq_zero_iff]
  simp [commandWordWf, or_assoc]

end

/-- Settles O2: the decoder is the encoder's inverse, and the three words it takes are told apart by their fields. -/
theorem decodeAndEncodeAgreeOnEveryWord : Obligations.DecodeAndEncodeAgreeOnEveryWord := by
  refine ⟨fun w i => decode_eq_ok_iff, ?_, ?_, ?_⟩
  · intro w reserved
    refine exists_decode_eq_error_iff.2 fun ⟨i, hw⟩ => reserved ?_
    exact rsvField_eq_zero_iff.1 (eq_encode_iff.1 hw).1
  · intro w
    have words : (∃ i, w = encode i) ↔ w = 0x00000001#32 ∨ w = 0x00000002#32 ∨ w = 0x00000003#32 := exists_instr
    rw [exists_decode_eq_error_iff, words, not_or, not_or]
  · intro w
    simp only [commandWordWf_iff, decode_eq_ok_iff]

end Sys2Proof.Machine

/-! ## The family 40_primitives: the words' arithmetic (R55, R56), exclusive-or and shifts (R57, R58), the rotations
(R59 to R62) -/

namespace Sys2Proof.Machine

/-! ### Addition and subtraction are those of the ring of words (R55, R56) -/

section

variable (a b c : Word)

theorem add32_eq_add : add32 a b = a + b := rfl

theorem toNat_add32 : (add32 a b).toNat = (a.toNat + b.toNat) % 2 ^ 32 := BitVec.toNat_add a b

theorem add32_comm : add32 a b = add32 b a := BitVec.add_comm a b

theorem add32_assoc : add32 (add32 a b) c = add32 a (add32 b c) := BitVec.add_assoc a b c

theorem toNat_sub32 : (sub32 a b).toNat = (a.toNat + 2 ^ 32 - b.toNat) % 2 ^ 32 := BitVec.toNat_ofNat _ _

theorem sub32_eq_sub : sub32 a b = a - b := by
  apply BitVec.eq_of_toNat_eq
  rw [toNat_sub32, BitVec.toNat_sub]
  have := b.isLt
  congr 1
  omega

@[simp] theorem sub32_add32 : sub32 (add32 a b) b = a := by
  rw [sub32_eq_sub, add32_eq_add, BitVec.add_sub_cancel]

end

/-- Settles O16: both operations are the ring's; the corner cases are computed. -/
theorem wraparoundAddAndSubtract : Obligations.WraparoundAddAndSubtract :=
  ⟨toNat_add32, add32_comm, add32_assoc, by decide, by decide, toNat_sub32, sub32_add32, by decide, by decide⟩

/-! ### Exclusive-or and the shifts (R57, R58) -/

section

variable (a b : Word)

theorem getLsbD_xor32 (k : Nat) : (xor32 a b).getLsbD k = (a.getLsbD k != b.getLsbD k) := BitVec.getLsbD_xor

@[simp] theorem xor32_self : xor32 a a = 0 := BitVec.xor_self

@[simp] theorem xor32_zero : xor32 a 0 = a := BitVec.xor_zero

@[simp] theorem xor32_xor32 : xor32 (xor32 a b) b = a := by
  calc a ^^^ b ^^^ b = a ^^^ (b ^^^ b) := BitVec.xor_assoc a b b
    _ = a := by rw [BitVec.xor_self, BitVec.xor_zero]

end

section

variable (x : Word) (n : Nat)

theorem toNat_shl32 : (shl32 x n).toNat = x.toNat * 2 ^ n % 2 ^ 32 := by
  rw [shl32, BitVec.toNat_shiftLeft, Nat.shiftLeft_eq]

theorem toNat_shr32 : (shr32 x n).toNat = x.toNat / 2 ^ n := by
  rw [shr32, BitVec.toNat_ushiftRight, Nat.shiftRight_eq_div_pow]

variable {n}

theorem shl32_eq_zero (h : 32 ≤ n) : shl32 x n = 0 := BitVec.shiftLeft_eq_zero h

theorem shr32_eq_zero (h : 32 ≤ n) : shr32 x n = 0 := BitVec.ushiftRight_eq_zero h

end

/-- Settles O17: each operation by its law. -/
theorem exclusiveOrAndShifts : Obligations.ExclusiveOrAndShifts :=
  ⟨fun a b k _ => getLsbD_xor32 a b k, xor32_self, xor32_zero, xor32_xor32, by decide, toNat_shl32, toNat_shr32,
    fun x _ h => ⟨shl32_eq_zero x h, shr32_eq_zero x h⟩⟩

/-! ### Where a rotation takes each bit from (R59 to R61) -/

section

variable (x n : Word)

/-- The source's shift formula is the library's rotation. -/
theorem rotl32_eq_rotateLeft : rotl32 x n = x.rotateLeft n.toNat := BitVec.rotateLeft_def.symm

/-- See `rotl32_eq_rotateLeft`. -/
theorem rotr32_eq_rotateRight : rotr32 x n = x.rotateRight n.toNat := BitVec.rotateRight_def.symm

variable {k : Nat}

/-- Below the amount the bits come round from the top; from the amount on they come from below. -/
theorem getLsbD_rotl32 (hk : k < 32) : (rotl32 x n).getLsbD k = x.getLsbD ((k + 32 - n.toNat % 32) % 32) := by
  rw [rotl32_eq_rotateLeft, BitVec.getLsbD_rotateLeft]
  by_cases wraps : k < n.toNat % 32
  · rw [decide_eq_true wraps, cond_true]
    congr 1; omega
  · rw [decide_eq_false wraps, cond_false, decide_eq_true hk, Bool.true_and]
    congr 1; omega

/-- The bits below 32 less the amount come from above; the rest come round from the bottom. -/
theorem getLsbD_rotr32 (hk : k < 32) : (rotr32 x n).getLsbD k = x.getLsbD ((k + n.toNat % 32) % 32) := by
  rw [rotr32_eq_rotateRight, BitVec.getLsbD_rotateRight]
  by_cases inside : k < 32 - n.toNat % 32
  · rw [decide_eq_true inside, cond_true]
    congr 1; omega
  · rw [decide_eq_false inside, cond_false, decide_eq_true hk, Bool.true_and]
    congr 1; omega

end

/-! ### The amount counts modulo 32 only (R59) -/

section

variable (x n : Word)

theorem toNat_mod32 : (mod32 n).toNat = n.toNat % 32 := by
  rw [mod32, BitVec.toNat_ofNat, Nat.mod_eq_of_lt (by omega)]

theorem mod32_eq_extractLsb' : mod32 n = (n.extractLsb' 0 5).setWidth 32 := by
  apply BitVec.eq_of_toNat_eq
  rw [toNat_mod32, BitVec.toNat_setWidth_of_le (by decide), BitVec.extractLsb'_toNat, Nat.shiftRight_zero]

variable {n} {m : Word}

theorem rotl32_congr (h : n.toNat % 32 = m.toNat % 32) : rotl32 x n = rotl32 x m := by
  rw [rotl32, h, ← rotl32]

theorem rotr32_congr (h : n.toNat % 32 = m.toNat % 32) : rotr32 x n = rotr32 x m := by
  rw [rotr32, h, ← rotr32]

variable (n)

@[simp] theorem rotl32_mod32 : rotl32 x (mod32 n) = rotl32 x n :=
  rotl32_congr x (by rw [toNat_mod32, Nat.mod_mod])

@[simp] theorem rotr32_mod32 : rotr32 x (mod32 n) = rotr32 x n :=
  rotr32_congr x (by rw [toNat_mod32, Nat.mod_mod])

@[simp] theorem rotl32_zero : rotl32 x 0 = x := by
  refine BitVec.eq_of_getLsbD_eq fun k hk => ?_
  rw [getLsbD_rotl32 x 0 hk, show (0 : Word).toNat % 32 = 0 from rfl, Nat.sub_zero, Nat.add_mod_right,
    Nat.mod_eq_of_lt hk]

@[simp] theorem rotr32_zero : rotr32 x 0 = x := by
  refine BitVec.eq_of_getLsbD_eq fun k hk => ?_
  rw [getLsbD_rotr32 x 0 hk, show (0 : Word).toNat % 32 = 0 from rfl, Nat.add_zero, Nat.mod_eq_of_lt hk]

@[simp] theorem zero_rotl32 : rotl32 0 n = 0 := by
  refine BitVec.eq_of_getLsbD_eq fun k hk => ?_
  rw [getLsbD_rotl32 0 n hk]
  simp

@[simp] theorem allOnes_rotl32 : rotl32 (BitVec.allOnes 32) n = BitVec.allOnes 32 := by
  refine BitVec.eq_of_getLsbD_eq fun k hk => ?_
  rw [getLsbD_rotl32 _ n hk, BitVec.getLsbD_allOnes, BitVec.getLsbD_allOnes,
    decide_eq_true (Nat.mod_lt _ (by decide)), decide_eq_true hk]

end

/-- Settles O18: each bit by its index; the amounts 0, 32 and 33 by the reduction modulo 32. -/
theorem rotationMovesEveryBit : Obligations.RotationMovesEveryBit := by
  refine ⟨fun x n k hk => getLsbD_rotl32 x n hk, fun x n k hk => getLsbD_rotr32 x n hk, fun _ _ => rfl,
    fun _ _ => rfl, fun n => ⟨toNat_mod32 n, mod32_eq_extractLsb' n⟩,
    fun x n => ⟨(rotl32_mod32 x n).symm, (rotr32_mod32 x n).symm⟩, fun x => ?_,
    fun n => ⟨zero_rotl32 n, allOnes_rotl32 n⟩, by decide, by decide, by decide⟩
  have by32 : rotl32 x 32 = rotl32 x 0 := rotl32_congr x rfl
  have by33 : rotl32 x 33 = rotl32 x 1 := rotl32_congr x rfl
  have right32 : rotr32 x 32 = rotr32 x 0 := rotr32_congr x rfl
  exact ⟨rotl32_zero x, by32.trans (rotl32_zero x), by33, rotr32_zero x, right32.trans (rotr32_zero x)⟩

/-! ### The rotations act by addition modulo 32 (R62) -/

section

variable (x n m : Word)

theorem rotl32_rotl32 :
    rotl32 (rotl32 x n) m = rotl32 x (BitVec.ofNat 32 ((n.toNat % 32 + m.toNat % 32) % 32)) := by
  refine BitVec.eq_of_getLsbD_eq fun k hk => ?_
  rw [getLsbD_rotl32 _ m hk, getLsbD_rotl32 x n (Nat.mod_lt _ (by decide)), getLsbD_rotl32 x _ hk,
    BitVec.toNat_ofNat]
  congr 1; omega

theorem rotr32_eq_rotl32 : rotr32 x n = rotl32 x (BitVec.ofNat 32 ((32 - n.toNat % 32) % 32)) := by
  refine BitVec.eq_of_getLsbD_eq fun k hk => ?_
  rw [getLsbD_rotr32 x n hk, getLsbD_rotl32 x _ hk, BitVec.toNat_ofNat]
  congr 1; omega

/-- Two left rotations whose amounts add up to a multiple of 32 undo each other. -/
theorem rotl32_rotl32_cancel {n m : Word} (h : (n.toNat + m.toNat) % 32 = 0) : rotl32 (rotl32 x n) m = x := by
  calc rotl32 (rotl32 x n) m
      = rotl32 x (BitVec.ofNat 32 ((n.toNat % 32 + m.toNat % 32) % 32)) := rotl32_rotl32 x n m
    _ = rotl32 x 0 := by rw [← Nat.add_mod, h]; rfl
    _ = x := rotl32_zero x

/-- The amount of a left rotation and that of the right rotation as a left one add up to a multiple of 32. -/
theorem amount_add_complement : (n.toNat + (BitVec.ofNat 32 ((32 - n.toNat % 32) % 32)).toNat) % 32 = 0 := by
  rw [BitVec.toNat_ofNat]; omega

@[simp] theorem rotr32_rotl32 : rotr32 (rotl32 x n) n = x := by
  rw [rotr32_eq_rotl32, rotl32_rotl32_cancel x (amount_add_complement n)]

@[simp] theorem rotl32_rotr32 : rotl32 (rotr32 x n) n = x := by
  rw [rotr32_eq_rotl32, rotl32_rotl32_cancel x (Nat.add_comm _ _ ▸ amount_add_complement n)]

end

/-! ### A rotation keeps the number of 1 bits (R62) -/

/-- Two words with the same bits at permuted indices have as many 1 bits. -/
theorem bitCount_eq_of_perm {x y : Word} (e : Equiv.Perm (Fin 32))
    (bits : ∀ k : Fin 32, y.getLsbD k.val = x.getLsbD (e k).val) : bitCount y = bitCount x :=
  Finset.card_equiv e fun k => by rw [Finset.mem_filter_univ, Finset.mem_filter_univ, bits k]

@[simp] theorem bitCount_rotr32 (x n : Word) : bitCount (rotr32 x n) = bitCount x := by
  refine bitCount_eq_of_perm (Equiv.addRight (Fin.ofNat 32 n.toNat)) fun k => ?_
  rw [getLsbD_rotr32 x n k.isLt, Equiv.coe_addRight, Fin.val_add, Fin.val_ofNat]

@[simp] theorem bitCount_rotl32 (x n : Word) : bitCount (rotl32 x n) = bitCount x := by
  rw [← bitCount_rotr32 (rotl32 x n) n, rotr32_rotl32]

/-- Settles O19: the laws all come from the sum of amounts; the count from the permutation of indices. -/
theorem rotationLaws : Obligations.RotationLaws :=
  ⟨fun x n => ⟨rotr32_rotl32 x n, rotl32_rotr32 x n⟩, rotr32_eq_rotl32, rotl32_rotl32,
    fun x n => ⟨bitCount_rotl32 x n, bitCount_rotr32 x n⟩⟩

end Sys2Proof.Machine

/-! ## The family 41_key_schedule: EXPAND (R64, R65), the expansion against its pseudocode (R66), its steps (R67 to
R70) -/

namespace Sys2Proof.Machine

/-! ### Arrays as functions of the index, as the pseudocode has them -/

/-- An array as the pseudocode's function of the index, 0 beyond its end. -/
def wordsFn {n : Nat} (v : Vector Word n) : Nat → Word := fun k => v[k]?.getD 0

section

variable {n : Nat} (v : Vector Word n)

theorem wordsFn_of_lt {k : Nat} (h : k < n) : wordsFn v k = v[k] := by
  simp [wordsFn, h]

theorem wordsFn_of_le {k : Nat} (h : n ≤ k) : wordsFn v k = 0 := by
  simp [wordsFn, h]

/-- A write to the array is the pseudocode's assignment. -/
theorem wordsFn_set {k : Nat} (h : k < n) (x : Word) :
    wordsFn (v.set k x h) = Pseudocode.setAt (wordsFn v) k x := by
  funext m
  by_cases same : m = k
  · subst same
    simp [wordsFn, Pseudocode.setAt, h]
  · simp [wordsFn, Pseudocode.setAt, same, Ne.symm same]

theorem wordsFn_replicate_zero : wordsFn (Vector.replicate n 0) = fun _ => 0 := by
  funext k
  by_cases h : k < n
  · simp [wordsFn_of_lt _ h]
  · exact wordsFn_of_le _ (Nat.le_of_not_lt h)

end

theorem ofKey_of_lt (K : KeyBytes) {x : Nat} (h : x < 16) : Pseudocode.ofKey K x = K[x] := by
  simp [Pseudocode.ofKey, h]

/-! ### Step 1, seed (R67) -/

theorem seedTable_getElem {i : Nat} (h : i < 26) : seedTable[i] = seedWord i := by
  simp [seedTable]

theorem seedWord_succ (i : Nat) : seedWord (i + 1) = add32 (seedWord i) 0x9E3779B9#32 := rfl

theorem toNat_seedWord (i : Nat) : (seedWord i).toNat = (0xB7E15163 + i * 0x9E3779B9) % 2 ^ 32 := by
  induction i with
  | zero => rfl
  | succ i ih =>
    rw [seedWord_succ, toNat_add32, ih, BitVec.toNat_ofNat]
    omega

/-- Settles O20: every entry is its seed word, whose closed form is by induction. -/
theorem seededTable : Obligations.SeededTable := by
  refine ⟨seedTable_getElem (by decide), fun i h => ?_, fun i h => ?_⟩
  · rw [seedTable_getElem, seedTable_getElem, seedWord_succ]
  · rw [seedTable_getElem, toNat_seedWord]

/-- One turn of the loop of step 1 of R66. -/
def seedBody (S : Nat → Word) (n : Nat) : Nat → Word := Pseudocode.setAt S (n + 1) (S n + 0x9E3779B9#32)

/-- `n` turns have written the seed words up to the index `n`. -/
theorem seedBody_foldl (n k : Nat) :
    (List.range n).foldl seedBody (Pseudocode.setAt (fun _ => 0) 0 0xB7E15163#32) k =
      if k ≤ n then seedWord k else 0 := by
  induction n generalizing k with
  | zero =>
    by_cases first : k = 0
    · subst first; rfl
    · simp [Pseudocode.setAt, first]
  | succ n ih =>
    rw [List.range_succ, List.foldl_append, List.foldl_cons, List.foldl_nil, seedBody, Pseudocode.setAt]
    by_cases last : k = n + 1
    · subst last
      rw [if_pos rfl, if_pos (Nat.le_refl _), ih, if_pos (Nat.le_refl _), seedWord_succ, add32_eq_add]
    · rw [if_neg last, ih]
      congr 1
      exact propext (by omega)

theorem wordsFn_seedTable : wordsFn seedTable = Pseudocode.seed := by
  funext k
  have seed : Pseudocode.seed k = if k ≤ 25 then seedWord k else 0 := seedBody_foldl 25 k
  by_cases h : k < 26
  · rw [seed, wordsFn_of_lt _ h, seedTable_getElem, if_pos (by omega)]
  · rw [seed, wordsFn_of_le _ (by omega), if_neg (by omega)]

/-! ### Step 2, pack (R68) -/

/-- One turn of the loop of step 2 of R66. -/
def packBody (K : Nat → Byte) (x : Nat) (L : Nat → Word) : Nat → Word :=
  Pseudocode.setAt L (x / 4) (L (x / 4) <<< 8 + (K x).setWidth 32)

theorem wordsFn_packByte (K : KeyBytes) (x : Fin 16) (L : KeyWords) :
    wordsFn (packByte K x L) = packBody (Pseudocode.ofKey K) x (wordsFn L) := by
  rw [packByte, wordsFn_set, packBody, ofKey_of_lt K x.isLt, wordsFn_of_lt L (by omega)]
  rfl

theorem wordsFn_packKey (K : KeyBytes) : wordsFn (packKey K) = Pseudocode.pack (Pseudocode.ofKey K) := by
  calc wordsFn (packKey K)
      = (List.finRange 16).foldr (fun x => packBody (Pseudocode.ofKey K) x.val)
          (wordsFn (Vector.replicate 4 0)) :=
        (List.foldr_hom wordsFn fun x L => (wordsFn_packByte K x L).symm).symm
    _ = ((List.finRange 16).map Fin.val).foldr (packBody (Pseudocode.ofKey K)) (fun _ => 0) := by
        rw [List.foldr_map, wordsFn_replicate_zero]
    _ = Pseudocode.pack (Pseudocode.ofKey K) := rfl

/-- A word with a byte shifted in from below. -/
def shiftIn (b : Byte) (w : Word) : Word := b.setWidth 32 ||| w <<< 8

/-- The sum of R68 is an "or", because the shift has made room for the byte. -/
theorem add32_shl32_byte (b : Byte) (w : Word) : add32 (shl32 w 8) (b.setWidth 32) = shiftIn b w := by
  have disjoint : w <<< 8 &&& b.setWidth 32 = 0 := by
    refine BitVec.eq_of_getLsbD_eq fun k hk => ?_
    by_cases low : k < 8
    · simp [low]
    · simp [BitVec.getLsbD_of_ge b k (by omega)]
  rw [add32_eq_add, shl32, BitVec.add_eq_or_of_and_eq_zero _ _ disjoint, shiftIn, BitVec.or_comm]

/-- A byte reaches the word it belongs to and no other. -/
theorem packByte_getElem (K : KeyBytes) (x : Fin 16) (L : KeyWords) {n : Nat} (h : n < 4) :
    (packByte K x L)[n] = if x.val / 4 = n then shiftIn K[x] L[n] else L[n] := by
  rw [packByte, Vector.getElem_set, add32_shl32_byte]
  split
  · next same => subst same; rfl
  · rfl

/-- The bytes of the word `n`, in the order of their indices. -/
theorem finRange_filter_word (n : Fin 4) :
    (List.finRange 16).filter (fun x => x.val / 4 = n.val) =
      [⟨4 * n, by omega⟩, ⟨4 * n + 1, by omega⟩, ⟨4 * n + 2, by omega⟩, ⟨4 * n + 3, by omega⟩] := by
  revert n; decide

/-- Packing shifts the four bytes of a word into what it held before. -/
theorem packByte_foldr_getElem (K : KeyBytes) (L : KeyWords) {n : Nat} (h : n < 4) :
    ((List.finRange 16).foldr (packByte K) L)[n] =
      shiftIn K[4 * n] (shiftIn K[4 * n + 1] (shiftIn K[4 * n + 2] (shiftIn K[4 * n + 3] L[n]))) := by
  calc ((List.finRange 16).foldr (packByte K) L)[n]
      = (List.finRange 16).foldr (fun x w => if x.val / 4 = n then shiftIn K[x] w else w) L[n] :=
        (List.foldr_hom (fun L : KeyWords => L[n]) fun x L => (packByte_getElem K x L h).symm).symm
    _ = ((List.finRange 16).filter fun x => x.val / 4 = n).foldr (fun x w => shiftIn K[x] w) L[n] := by
        simp [List.foldr_filter]
    _ = _ := by rw [finRange_filter_word ⟨n, h⟩]; rfl

/-- Four bytes fill a word: nothing is left of what it held before. -/
theorem shiftIn_four (b0 b1 b2 b3 : Byte) (w : Word) :
    shiftIn b0 (shiftIn b1 (shiftIn b2 (shiftIn b3 w))) =
      b0.setWidth 32 ||| b1.setWidth 32 <<< 8 ||| b2.setWidth 32 <<< 16 ||| b3.setWidth 32 <<< 24 := by
  have gone : w <<< 32 = 0 := BitVec.shiftLeft_eq_zero (Nat.le_refl _)
  simp only [shiftIn, BitVec.shiftLeft_or_distrib, ← BitVec.shiftLeft_add, Nat.reduceAdd, gone, BitVec.or_assoc]
  simp

theorem packKey_eq_foldr (K : KeyBytes) (L : KeyWords) : (List.finRange 16).foldr (packByte K) L = packKey K := by
  refine Vector.ext fun n h => ?_
  rw [packKey, packByte_foldr_getElem K _ h, packByte_foldr_getElem K _ h, shiftIn_four, shiftIn_four]

/-- Byte `4n + b` of the snapshot is bits `8b+7:8b` of `KEYn` (R64). -/
theorem keySnapshot_getElem (key : KeyWords) {n b : Nat} (hn : n < 4) (hb : b < 4) :
    (keySnapshot key)[4 * n + b] = (key[n] >>> (8 * b)).setWidth 8 := by
  simp only [keySnapshot, Vector.getElem_ofFn, keyByte, show (4 * n + b) / 4 = n by omega,
    show (4 * n + b) % 4 = b by omega]
  rfl

/-- A word is its low byte shifted into the rest. -/
theorem shiftIn_low_byte (w : Word) : shiftIn (w.setWidth 8) (w >>> 8) = w := by
  refine BitVec.eq_of_getLsbD_eq fun k hk => ?_
  by_cases low : k < 8
  · simp [shiftIn, low, hk]
  · have back : 8 + (k - 8) = k := by omega
    simp [shiftIn, low, hk, back]

/-- The same for what is left of a word when its `b` lowest bytes are gone. -/
theorem shiftIn_byte (w : Word) (b : Nat) :
    shiftIn ((w >>> (8 * b)).setWidth 8) (w >>> (8 * (b + 1))) = w >>> (8 * b) := by
  rw [Nat.mul_succ, BitVec.shiftRight_add, shiftIn_low_byte]

theorem packKey_keySnapshot (key : KeyWords) : packKey (keySnapshot key) = key := by
  refine Vector.ext fun n h => ?_
  have byte (b : Nat) (hb : b < 4) := keySnapshot_getElem key h hb
  have start : (Vector.replicate 4 (0 : Word))[n] = key[n] >>> (8 * (3 + 1)) := by
    rw [Vector.getElem_replicate, BitVec.ushiftRight_eq_zero (by decide)]; rfl
  rw [packKey, packByte_foldr_getElem _ _ h, byte 3 (by decide), byte 2 (by decide), byte 1 (by decide),
    show (keySnapshot key)[4 * n] = _ from byte 0 (by decide), start, shiftIn_byte _ 3, shiftIn_byte _ 2,
    shiftIn_byte _ 1, shiftIn_byte _ 0]
  exact BitVec.ushiftRight_zero _

/-- Settles O21: each word is filled by its own four bytes. -/
theorem keyPackingIsLittleEndian : Obligations.KeyPackingIsLittleEndian := by
  refine ⟨fun K n h => ?_, packKey_eq_foldr, packKey_keySnapshot⟩
  rw [packKey, packByte_foldr_getElem K _ h, shiftIn_four]

/-! ### Step 3, mix (R69, R70) -/

theorem val_nextI (i : Fin 26) : (nextI i).val = (i.val + 1) % 26 := by
  revert i; decide

theorem val_nextJ (j : Fin 4) : (nextJ j).val = (j.val + 1) % 4 := by
  revert j; decide

theorem mixLoop_eq_iterate (n : Nat) (m : Mix) : mixLoop n m = mixStep^[n] m := by
  induction n generalizing m with
  | zero => rfl
  | succ n ih => exact ih (mixStep m)

/-- The last iteration of a loop: the loop's definition peels off the first. -/
theorem mixLoop_succ (n : Nat) (m : Mix) : mixLoop (n + 1) m = mixStep (mixLoop n m) := by
  rw [mixLoop_eq_iterate, mixLoop_eq_iterate, Function.iterate_succ_apply']

theorem mixLoop_indices (K : KeyBytes) (n : Nat) :
    (mixLoop n (mixStart K)).i.val = n % 26 ∧ (mixLoop n (mixStart K)).j.val = n % 4 := by
  induction n with
  | zero => exact ⟨rfl, rfl⟩
  | succ n ih =>
    obtain ⟨hi, hj⟩ := ih
    rw [mixLoop_succ]
    constructor
    · calc (nextI (mixLoop n (mixStart K)).i).val = (n % 26 + 1) % 26 := by rw [val_nextI, hi]
        _ = (n + 1) % 26 := Nat.mod_add_mod n 26 1
    · calc (nextJ (mixLoop n (mixStart K)).j).val = (n % 4 + 1) % 4 := by rw [val_nextJ, hj]
        _ = (n + 1) % 4 := Nat.mod_add_mod n 4 1

/-- Settles O22: the writes are those of the loop's last iteration, the indices by induction. -/
theorem mixingOrderAndIndices : Obligations.MixingOrderAndIndices := by
  refine ⟨fun _ => ⟨rfl, rfl, rfl, rfl⟩, mixLoop_indices, fun K n => ?_, fun _ => rfl,
    fun K => mixLoop_indices K 78, by decide, by decide⟩
  rw [mixLoop_succ]
  exact ⟨rfl, rfl, rfl, rfl⟩

/-! ### The expansion as a whole (R66) -/

/-- The variables of step 3 of R66 that the model's mixing state stands for. -/
def Mix.vars (m : Mix) : Pseudocode.Vars where
  S := wordsFn m.S
  L := wordsFn m.L
  A := m.A
  B := m.B
  i := m.i.val
  j := m.j.val

theorem vars_mixStart (K : KeyBytes) : (mixStart K).vars =
    { S := Pseudocode.seed, L := Pseudocode.pack (Pseudocode.ofKey K), A := 0, B := 0, i := 0, j := 0 } := by
  rw [← wordsFn_seedTable, ← wordsFn_packKey]; rfl

/-- The commuting step: an iteration of the model is the loop body of the pseudocode. -/
theorem vars_mixStep (m : Mix) : (mixStep m).vars = Pseudocode.mixBody m.vars := by
  simp only [Mix.vars, mixStep, Pseudocode.mixBody, wordsFn_set, wordsFn_of_lt, Fin.is_lt, Fin.getElem_fin,
    val_nextI, val_nextJ, rotl32_eq_rotateLeft, toNat_mod32, add32_eq_add]
  rfl

theorem vars_mixLoop (n : Nat) (m : Mix) :
    (mixLoop n m).vars = (List.range n).foldl (fun v _ => Pseudocode.mixBody v) m.vars := by
  rw [mixLoop_eq_iterate, List.foldl_const, List.length_range]
  exact (Function.Semiconj.iterate_right vars_mixStep n).eq m

/-- Settles O23: the two loops run in step, from the same seed and the same packed key. -/
theorem expansionRefinesThePseudocode : Obligations.ExpansionRefinesThePseudocode := by
  intro K k h
  calc (expandKey K)[k] = (mixLoop 78 (mixStart K)).vars.S k := (wordsFn_of_lt (expandKey K) h).symm
    _ = Pseudocode.expand (Pseudocode.ofKey K) k := by rw [vars_mixLoop, vars_mixStart]; rfl

/-! ### The command (R64, R65) -/

/-- Settles O9: the acceptance of EXPAND on an idle and on a busy core. -/
theorem expandIssue : Obligations.ExpandIssue := by
  refine ⟨rfl, fun s idle => ⟨keySnapshot s.core.key, fun n b hn hb => keySnapshot_getElem _ hn hb, ?_⟩,
    fun s busy => exec_busy busy .expand⟩
  exact acceptCommand_idle idle (by simp)

/-- Settles O13: the completion step with EXPAND pending. -/
theorem expandCompletion : Obligations.ExpandCompletion := by
  intro s kb turn pending
  rw [step_core turn, coreTurn_expand (by simpa using pending)]
  exact ⟨_, _, rfl⟩

end Sys2Proof.Machine

/-! ## The family 42_block_transform: ENCRYPT and DECRYPT (R73, R74, R77, R78), the transforms against their pseudocode
(R75, R79), and each as the inverse of the other (R81) -/

namespace Sys2Proof.Machine

/-! ### One assignment of a round, and its inverse (R75, R79) -/

/-- An assignment of R75: `((x XOR y) <<< (y mod 32)) + k`. -/
def encryptLine (x y k : Word) : Word := add32 (rotl32 (xor32 x y) (mod32 y)) k

/-- An assignment of R79: `((x - k) >>> (y mod 32)) XOR y`. -/
def decryptLine (x y k : Word) : Word := xor32 (rotr32 (sub32 x k) (mod32 y)) y

section

variable (x y k : Word)

@[simp] theorem add32_sub32 : add32 (sub32 x k) k = x := by
  rw [sub32_eq_sub, add32_eq_add, BitVec.sub_add_cancel]

@[simp] theorem decryptLine_encryptLine : decryptLine (encryptLine x y k) y k = x := by
  rw [decryptLine, encryptLine, sub32_add32, rotr32_rotl32, xor32_xor32]

@[simp] theorem encryptLine_decryptLine : encryptLine (decryptLine x y k) y k = x := by
  rw [encryptLine, decryptLine, xor32_xor32, rotl32_rotr32, add32_sub32]

theorem encryptLine_eq : encryptLine x y k = (x ^^^ y).rotateLeft (y.toNat % 32) + k := by
  rw [encryptLine, add32_eq_add, rotl32_eq_rotateLeft, toNat_mod32, xor32]

theorem decryptLine_eq : decryptLine x y k = (x - k).rotateRight (y.toNat % 32) ^^^ y := by
  rw [decryptLine, sub32_eq_sub, rotr32_eq_rotateRight, toNat_mod32, xor32]

end

/-! ### A round (R76, R80) -/

section

variable (S : Table) (r : Fin 12) (M C : Block)

/-- The second assignment of an encrypt round uses the new `A`. -/
theorem encryptRound_eq : encryptRound S M r =
    (encryptLine M.1 M.2 (roundKeyA S r),
      encryptLine M.2 (encryptLine M.1 M.2 (roundKeyA S r)) (roundKeyB S r)) := rfl

/-- The second assignment of a decrypt round uses the new `B`. -/
theorem decryptRound_eq : decryptRound S r C =
    (decryptLine C.1 (decryptLine C.2 C.1 (roundKeyB S r)) (roundKeyA S r),
      decryptLine C.2 C.1 (roundKeyB S r)) := rfl

/-- The decrypt round recovers `B` with the new `A`, which it still has, and then `A` with that `B`. -/
theorem decryptRound_encryptRound : decryptRound S r (encryptRound S M r) = M := by
  rw [decryptRound_eq, encryptRound_eq, decryptLine_encryptLine, decryptLine_encryptLine]

theorem encryptRound_decryptRound : encryptRound S (decryptRound S r C) r = C := by
  rw [encryptRound_eq, decryptRound_eq, encryptLine_decryptLine, encryptLine_decryptLine]

end

/-! ### The rounds against the pseudocode (R75, R79) -/

/-- The body of the loop of R75. -/
def encryptBody (S : Nat → Word) (M : Block) (i : Nat) : Block :=
  let A := (M.1 ^^^ M.2).rotateLeft (M.2.toNat % 32) + S (2 * i)
  let B := (M.2 ^^^ A).rotateLeft (A.toNat % 32) + S (2 * i + 1)
  (A, B)

/-- The body of the loop of R79. -/
def decryptBody (S : Nat → Word) (i : Nat) (C : Block) : Block :=
  let B := (C.2 - S (2 * i + 1)).rotateRight (C.1.toNat % 32) ^^^ C.1
  let A := (C.1 - S (2 * i)).rotateRight (B.toNat % 32) ^^^ B
  (A, B)

section

variable (S : Table) (r : Fin 12) (M C : Block)

theorem ofTable_of_lt {k : Nat} (h : k < 26) : Pseudocode.ofTable S k = S[k] := wordsFn_of_lt S h

theorem roundKeyA_eq_ofTable : roundKeyA S r = Pseudocode.ofTable S (2 * (r.val + 1)) :=
  (ofTable_of_lt S _).symm

theorem roundKeyB_eq_ofTable : roundKeyB S r = Pseudocode.ofTable S (2 * (r.val + 1) + 1) :=
  (ofTable_of_lt S _).symm

/-- The commuting step: round `r + 1` of the model is the loop body of the pseudocode. -/
theorem encryptRound_eq_encryptBody : encryptRound S M r = encryptBody (Pseudocode.ofTable S) M (r.val + 1) := by
  simp only [encryptRound_eq, encryptLine_eq, roundKeyA_eq_ofTable, roundKeyB_eq_ofTable, encryptBody]

/-- See `encryptRound_eq_encryptBody`. -/
theorem decryptRound_eq_decryptBody : decryptRound S r C = decryptBody (Pseudocode.ofTable S) (r.val + 1) C := by
  simp only [decryptRound_eq, decryptLine_eq, roundKeyA_eq_ofTable, roundKeyB_eq_ofTable, decryptBody]

end

/-- The rounds 1 to 12 of the pseudocode are the rounds `r + 1` of the model. -/
theorem finRange_map_round : (List.finRange 12).map (fun r => r.val + 1) = List.range' 1 12 := by decide

/-- Settles O24: the rounds run in step, from the same pre-whitened block. -/
theorem encryptionRefinesThePseudocode : Obligations.EncryptionRefinesThePseudocode := by
  intro M S
  have start : (add32 M.1 S[0], add32 M.2 S[1]) = (M.1 + Pseudocode.ofTable S 0, M.2 + Pseudocode.ofTable S 1) := by
    rw [ofTable_of_lt S (by decide), ofTable_of_lt S (by decide), add32_eq_add, add32_eq_add]
  calc encryptBlock M S
      = (List.finRange 12).foldl (fun N r => encryptBody (Pseudocode.ofTable S) N (r.val + 1))
          (add32 M.1 S[0], add32 M.2 S[1]) := by
        rw [encryptBlock, funext₂ fun N r => encryptRound_eq_encryptBody S r N]
    _ = (List.range' 1 12).foldl (encryptBody (Pseudocode.ofTable S))
          (M.1 + Pseudocode.ofTable S 0, M.2 + Pseudocode.ofTable S 1) := by
        rw [← finRange_map_round, List.foldl_map, start]
    _ = Pseudocode.encrypt M (Pseudocode.ofTable S) := rfl

/-- Settles O25: the rounds run in step, downwards, and the whitening is taken off at the end. -/
theorem decryptionRefinesThePseudocode : Obligations.DecryptionRefinesThePseudocode := by
  intro C S
  have rounds : (List.finRange 12).foldr (decryptRound S) C =
      (List.range' 1 12).foldr (decryptBody (Pseudocode.ofTable S)) C := by
    rw [← finRange_map_round, List.foldr_map, ← funext₂ fun r D => decryptRound_eq_decryptBody S r D]
  rw [decryptBlock, rounds, sub32_eq_sub, sub32_eq_sub, ← ofTable_of_lt, ← ofTable_of_lt]
  rfl

/-! ### The transforms undo each other (R81) -/

section

variable {α β : Type} {f : β → α → β} {g : α → β → β}

/-- Steps undone from the last to the first. -/
theorem foldr_foldl_cancel (undo : ∀ a b, g a (f b a) = b) (l : List α) (b : β) : l.foldr g (l.foldl f b) = b := by
  induction l generalizing b with
  | nil => rfl
  | cons a l ih => rw [List.foldl_cons, List.foldr_cons, ih, undo]

/-- Steps redone from the first to the last. -/
theorem foldl_foldr_cancel (redo : ∀ a b, f (g a b) a = b) (l : List α) (b : β) : l.foldl f (l.foldr g b) = b := by
  induction l with
  | nil => rfl
  | cons a l ih => rw [List.foldr_cons, List.foldl_cons, redo, ih]

end

section

variable (S : Table) (M C : Block)

@[simp] theorem decryptBlock_encryptBlock : decryptBlock (encryptBlock M S) S = M := by
  rw [decryptBlock, encryptBlock, foldr_foldl_cancel fun r N => decryptRound_encryptRound S r N, sub32_add32,
    sub32_add32]

@[simp] theorem encryptBlock_decryptBlock : encryptBlock (decryptBlock C S) S = C := by
  rw [encryptBlock, decryptBlock, add32_sub32, add32_sub32,
    foldl_foldr_cancel fun r D => encryptRound_decryptRound S r D]

end

theorem encryptBlock_bijective (S : Table) : Function.Bijective fun M => encryptBlock M S :=
  Function.bijective_iff_has_inverse.2
    ⟨fun C => decryptBlock C S, fun M => decryptBlock_encryptBlock S M, fun C => encryptBlock_decryptBlock S C⟩

theorem decryptBlock_bijective (S : Table) : Function.Bijective fun C => decryptBlock C S :=
  Function.bijective_iff_has_inverse.2
    ⟨fun M => encryptBlock M S, fun C => encryptBlock_decryptBlock S C, fun M => decryptBlock_encryptBlock S M⟩

/-! ### The commands (R73, R74, R77, R78) -/

section

variable {s t : State}

theorem step_encrypt_pending {m0 m1 : Word} (turn : whoseTurn s = .core) (pending : s.core.pend = .encrypt m0 m1) :
    step s = .next (scrambleDatapath ((takeTurn s).withCore (completeEncrypt m0 m1 s.core))) := by
  rw [step_core turn, coreTurn_encrypt (by simpa using pending), takeTurn_core]

theorem step_decrypt_pending {c0 c1 : Word} (turn : whoseTurn s = .core) (pending : s.core.pend = .decrypt c0 c1) :
    step s = .next (scrambleDatapath ((takeTurn s).withCore (completeDecrypt c0 c1 s.core))) := by
  rw [step_core turn, coreTurn_decrypt (by simpa using pending), takeTurn_core]

/-- R74 leaves the table as it was, so a DECRYPT after it works with the same one. -/
theorem dout_of_step_encrypt {m0 m1 : Word} (turn : whoseTurn s = .core) (pending : s.core.pend = .encrypt m0 m1)
    (h : step s = .next t) :
    t.core.dout = #v[(encryptBlock (m0, m1) s.core.S).1, (encryptBlock (m0, m1) s.core.S).2] ∧
      t.core.S = s.core.S := by
  rw [step_encrypt_pending turn pending] at h
  cases h
  exact ⟨rfl, rfl⟩

theorem dout_of_step_decrypt {c0 c1 : Word} (turn : whoseTurn s = .core) (pending : s.core.pend = .decrypt c0 c1)
    (h : step s = .next t) :
    t.core.dout = #v[(decryptBlock (c0, c1) s.core.S).1, (decryptBlock (c0, c1) s.core.S).2] := by
  rw [step_decrypt_pending turn pending] at h
  cases h
  rfl

end

/-- Settles O26: the rounds undo each other one by one; the completions write what the transforms compute, and neither
changes the table. -/
theorem decryptInvertsEncrypt : Obligations.DecryptInvertsEncrypt := by
  refine ⟨fun M S => decryptBlock_encryptBlock S M, fun C S => encryptBlock_decryptBlock S C,
    fun S => ⟨encryptBlock_bijective S, decryptBlock_bijective S⟩, ?_⟩
  intro s t u v m0 m1 turn pending encrypted turn' pending' sameTable decrypted
  obtain ⟨cipher, table⟩ := dout_of_step_encrypt turn pending encrypted
  have plain := dout_of_step_decrypt turn' pending' decrypted
  have operand : (t.core.dout[0], t.core.dout[1]) = encryptBlock (m0, m1) s.core.S := by rw [cipher]; rfl
  rw [plain, operand, sameTable, table, decryptBlock_encryptBlock]

/-- Settles O10: the acceptance of ENCRYPT on an idle core with the table, on a busy core, and on one without it. -/
theorem encryptIssue : Obligations.EncryptIssue :=
  ⟨rfl, fun _ idle table => acceptCommand_idle idle fun _ => table, fun _ busy => exec_busy busy .encrypt,
    fun _ idle noTable => acceptCommand_noTable idle noTable⟩

/-- Settles O11: the acceptance of DECRYPT on an idle core with the table, on a busy core, and on one without it. -/
theorem decryptIssue : Obligations.DecryptIssue :=
  ⟨rfl, fun _ idle table => acceptCommand_idle idle fun _ => table, fun _ busy => exec_busy busy .decrypt,
    fun _ idle noTable => acceptCommand_noTable idle noTable⟩

/-- Settles O14: the completion step with ENCRYPT pending. -/
theorem encryptCompletion : Obligations.EncryptCompletion :=
  fun _ _ _ turn pending => ⟨_, _, step_encrypt_pending turn pending⟩

/-- Settles O15: the completion step with DECRYPT pending. -/
theorem decryptCompletion : Obligations.DecryptCompletion :=
  fun _ _ _ turn pending => ⟨_, _, step_decrypt_pending turn pending⟩

end Sys2Proof.Machine

/-! ## The family 60_exceptions: the acceptance and the rejection of a command (R85 to R87), runs that nothing stops (R83),
and the turns with nothing to do -/

namespace Sys2Proof.Machine

variable {s t : State}

/-! ### Progress: a host with only defined accesses is never stopped (R33, R83) -/

theorem hostRead_goes_on {off : Offset} {width : Nat} (wf : (HostOp.read off width).wf = true) (s : State) :
    ∃ t, hostRead off width s = .next t :=
  ⟨_, if_pos wf⟩

theorem hostWrite_goes_on {off : Offset} {width : Nat} {v : Word} (wf : (HostOp.write off width v).wf = true)
    (s : State) : ∃ t, hostWrite off width v s = .next t := by
  rw [hostWrite, if_pos (show accessDefined off width = true from wf)]
  exact memWrite_goes_on off v s

theorem hostTurn_nil (line : s.program = []) : hostTurn s = .next s := by
  rw [hostTurn, line]

theorem step_goes_on (defined : s.programDefined) : ∃ t, step s = .next t := by
  cases turn : whoseTurn s with
  | core => exact ⟨_, step_core turn⟩
  | reset => exact ⟨_, step_reset turn⟩
  | host =>
    cases line : s.program with
    | nil => exact ⟨_, (step_host turn).trans (hostTurn_nil line)⟩
    | cons op rest =>
      have wf : op.wf = true := defined op (by simp [line])
      cases op with
      | wait => exact ⟨_, step_wait turn line⟩
      | read off width => rw [step_read turn line]; exact hostRead_goes_on wf _
      | write off width v => rw [step_write turn line]; exact hostWrite_goes_on wf _

/-- No step gives the host a line it did not have. -/
theorem step_program_suffix (h : step s = .next t) : t.program <:+ s.program := by
  have taken {op : HostOp} {rest : List HostOp} (line : s.program = op :: rest) : rest <:+ s.program :=
    line ▸ List.suffix_cons op rest
  cases step_cases h with
  | hostDone => exact List.suffix_rfl
  | read off rest _ line => simpa using taken line
  | write off v rest c _ line => exact taken line
  | pollAgain => exact List.suffix_rfl
  | pollDone rest _ line => exact taken line
  | coreIdle => exact List.suffix_rfl
  | doneExpand => exact List.suffix_rfl
  | doneEncrypt => exact List.suffix_rfl
  | doneDecrypt => exact List.suffix_rfl
  | reset => exact List.suffix_rfl

theorem step_keeps_programDefined (defined : s.programDefined) (h : step s = .next t) : t.programDefined :=
  fun op mem => defined op ((step_program_suffix h).mem mem)

/-- Settles O51: such a state makes a step, and comes to such a state by it. -/
theorem definedAccessesNeverStopTheMachine : Obligations.DefinedAccessesNeverStopTheMachine := by
  intro s defined n
  induction n generalizing s with
  | zero => exact ⟨s, rfl⟩
  | succ n ih =>
    obtain ⟨t, ht⟩ := step_goes_on defined
    rw [runSteps_succ n ht]
    exact ih t (step_keeps_programDefined defined ht)

/-! ### What a write to CMD does, in R85's order -/

theorem submitCommand_illegal {w : Word} (idle : s.core.pend = .none) (illegal : ∃ e, decode w = .error e) :
    submitCommand w s = .next (raiseCmdError .illegalCmd s) := by
  obtain ⟨e, word⟩ := illegal
  rw [submitCommand, if_neg (by simpa using idle), word]

/-- Settles O6: BUSY_CMD before the word is decoded, ILLEGAL_CMD for a word that is no command, and otherwise the
acceptance of the command it decodes to. -/
theorem commandAcceptance : Obligations.CommandAcceptance := by
  intro s w rest turn line
  have submit : step s = submitCommand w (afterLine s rest) := step_writeCmd turn line
  have run {i : Instr} (word : decode w = .ok i) : step s = exec i (afterLine s rest) :=
    submit.trans (submitCommand_of_decode word _)
  exact ⟨fun busy => submit.trans (submitCommand_busy (s := afterLine s rest) busy w),
    fun idle illegal => submit.trans (submitCommand_illegal idle illegal),
    fun idle word noTable => (run word).trans (acceptCommand_noTable idle noTable),
    fun idle word table => (run word).trans (acceptCommand_idle idle fun _ => table),
    fun idle word noTable => (run word).trans (acceptCommand_noTable idle noTable),
    fun idle word table => (run word).trans (acceptCommand_idle idle fun _ => table),
    fun idle word => (run word).trans (acceptCommand_idle idle (by simp))⟩

/-! ### The error that is recorded (R84, R86) -/

theorem CoreState.raiseCmdError_first {c : CoreState} (noError : c.err = false) (e : CmdError) :
    c.raiseCmdError e = { c with err := true, errcode := e.code } :=
  if_neg (by simp [noError])

theorem CoreState.raiseCmdError_again {c : CoreState} (error : c.err = true) (e : CmdError) : c.raiseCmdError e = c :=
  if_pos error

/-- Settles O7: the two cases of R86; and no command's issue looks at the error fields or writes them. -/
theorem firstErrorIsKept : Obligations.FirstErrorIsKept := by
  refine ⟨⟨rfl, rfl, rfl⟩, fun _ e noError => CoreState.raiseCmdError_first noError e,
    fun _ e error => CoreState.raiseCmdError_again error e, fun s i error idle table => ?_⟩
  cases i with
  | expand => exact ⟨_, acceptCommand_idle idle (by simp), by simp, rfl, error, rfl⟩
  | encrypt => exact ⟨_, acceptCommand_idle idle fun _ => table (by decide), by simp, rfl, error, rfl⟩
  | decrypt => exact ⟨_, acceptCommand_idle idle fun _ => table (by decide), by simp, rfl, error, rfl⟩

/-! ### A rejected command (R87) -/

/-- The causes for which R85 rejects a CMD write of `w`. -/
def CoreState.Rejects (c : CoreState) (w : Word) : Prop :=
  c.pend ≠ .none ∨ (∃ e, decode w = .error e) ∨ ((decode w = .ok .encrypt ∨ decode w = .ok .decrypt) ∧ c.tv = false)

theorem submitCommand_rejected {w : Word} (rejects : s.core.Rejects w) :
    ∃ e, submitCommand w s = .next (raiseCmdError e s) := by
  by_cases idle : s.core.pend = .none
  · obtain busy | illegal | ⟨encrypt | decrypt, noTable⟩ := rejects
    · exact absurd idle busy
    · exact ⟨_, submitCommand_illegal idle illegal⟩
    · exact ⟨_, (submitCommand_of_decode encrypt s).trans (acceptCommand_noTable idle noTable)⟩
    · exact ⟨_, (submitCommand_of_decode decrypt s).trans (acceptCommand_noTable idle noTable)⟩
  · exact ⟨_, submitCommand_busy idle w⟩

theorem CoreState.raiseCmdError_frame (c : CoreState) (e : CmdError) :
    c.raiseCmdError e = { c with err := true, errcode := (c.raiseCmdError e).errcode } := by
  cases error : c.err with
  | false => simp [raiseCmdError_first error]
  | true => rw [raiseCmdError_again error, ← error]

/-- A completion that neither looks at the error fields nor writes them gives the same core but for them. -/
theorem scrambleDatapath_core_of_error {f : CoreState → CoreState} {err : Bool} {code : BitVec 4}
    (core : t.core = { s.core with err := err, errcode := code }) (draws : t.draws = s.draws)
    (commutes : ∀ c : CoreState, f { c with err := err, errcode := code } = { f c with err := err, errcode := code }) :
    (scrambleDatapath (t.withCore (f t.core))).core =
      { (scrambleDatapath (s.withCore (f s.core))).core with err := err, errcode := code } := by
  simp only [scrambleDatapath_core, State.withCore_core, State.withCore_draws, core, draws, commutes]

/-- The completion step neither looks at the error fields nor writes them. -/
theorem coreTurn_core_of_error {err : Bool} {code : BitVec 4}
    (core : t.core = { s.core with err := err, errcode := code }) (draws : t.draws = s.draws) :
    (coreTurn t).core = { (coreTurn s).core with err := err, errcode := code } := by
  have pend : t.core.pend = s.core.pend := by rw [core]
  cases pending : s.core.pend with
  | none => rw [coreTurn_idle pending, coreTurn_idle (pend.trans pending), core]
  | expand kb =>
    rw [coreTurn_expand pending, coreTurn_expand (pend.trans pending)]
    exact scrambleDatapath_core_of_error core draws fun _ => rfl
  | encrypt m0 m1 =>
    rw [coreTurn_encrypt pending, coreTurn_encrypt (pend.trans pending)]
    exact scrambleDatapath_core_of_error core draws fun _ => rfl
  | decrypt c0 c1 =>
    rw [coreTurn_decrypt pending, coreTurn_decrypt (pend.trans pending)]
    exact scrambleDatapath_core_of_error core draws fun _ => rfl

/-- Settles O8: a rejection raises one error, which changes nothing but ERR and ERRCODE, and the completion does not
depend on these. -/
theorem rejectedCommandChangesOnlyTheError : Obligations.RejectedCommandChangesOnlyTheError := by
  intro s w rest turn line rejects
  obtain ⟨e, rejected⟩ := submitCommand_rejected (s := afterLine s rest) rejects
  have core : (raiseCmdError e (afterLine s rest)).core =
      { s.core with err := true, errcode := (s.core.raiseCmdError e).errcode } := s.core.raiseCmdError_frame e
  refine ⟨_, (step_writeCmd turn line).trans rejected, congrArg (afterLine s rest).withCore core, fun error => ?_, ?_⟩
  · exact congrArg CoreState.errcode (CoreState.raiseCmdError_again error e)
  · rw [coreTurn_core_of_error core rfl, core]

/-! ### Turns with nothing to do -/

/-- Settles O54: an idle core's turn and a finished host's turn take nothing but the turn. -/
theorem turnsWithNothingToDoOnlyPass : Obligations.TurnsWithNothingToDoOnlyPass :=
  ⟨fun _ turn idle => step_core_idle turn idle, fun _ turn line => (step_host turn).trans (hostTurn_nil line)⟩

end Sys2Proof.Machine

/-! ## The family 70_reset_and_hazards: reset (R96, R98), input writes while busy (R105), WAIT (R108), and what the host
cannot observe of a table that is not valid and of a result that is not ready (R101, R102) -/

namespace Sys2Proof.Machine

variable {s t : State}

/-! ### Two runs that differ in what is not ready (R101, R102)

The table's storage and DOUT stand side by side here, because one simulation serves both: a step looks at the table only
while TV = 1 or a transform is pending, and at DOUT only while none is. -/

/-- The core with another storage of the table and another DOUT. -/
def CoreState.withResults (S : Table) (D : Vector Word 2) (c : CoreState) : CoreState := { c with S := S, dout := D }

/-- The machine with another storage of the table and another DOUT in its core. -/
def State.withResults (S : Table) (D : Vector Word 2) (s : State) : State := s.withCore (s.core.withResults S D)

/-- The table's storage is another one only where no read and no pending transform needs it, and DOUT only where it is
about to be overwritten. -/
structure CoreState.Unseen (S : Table) (D : Vector Word 2) (c : CoreState) : Prop where
  table : c.tv = true ∨ c.pend.transforming = true → S = c.S
  result : c.pend.transforming = false → D = c.dout

section

variable (S : Table) (D : Vector Word 2) (c : CoreState) (s : State)

theorem CoreState.raiseCmdError_withResults (e : CmdError) :
    (c.withResults S D).raiseCmdError e = (c.raiseCmdError e).withResults S D := by
  cases error : c.err with
  | false => rw [raiseCmdError_first error, raiseCmdError_first (c := c.withResults S D) error]; rfl
  | true => rw [raiseCmdError_again error, raiseCmdError_again (c := c.withResults S D) error]

theorem CoreState.writeStatus_withResults (v : Word) :
    (c.withResults S D).writeStatus v = (c.writeStatus v).withResults S D := by
  unfold CoreState.writeStatus
  split <;> rfl

/-- The operation `op` of the host makes the same change to the core whatever the results are. -/
def Blind (op : State → Host.Outcome State Fault Refusal) : Prop :=
  ∃ d, op s = .next (s.withCore d) ∧ op (s.withResults S D) = .next (s.withCore (d.withResults S D))

variable {S D s}

/-- The operation is blind where it changes the core by `f` on both sides, and `f` commutes with other results. -/
theorem blind_of_commutes {op : State → Host.Outcome State Fault Refusal} {f : CoreState → CoreState}
    (commutes : f (s.core.withResults S D) = (f s.core).withResults S D) (here : op s = .next (s.withCore (f s.core)))
    (there : op (s.withResults S D) = .next (s.withCore (f (s.core.withResults S D)))) : Blind S D s op :=
  ⟨_, here, commutes ▸ there⟩

theorem blind_raise {op : State → Host.Outcome State Fault Refusal} {e : CmdError}
    (here : op s = .next (raiseCmdError e s))
    (there : op (s.withResults S D) = .next (raiseCmdError e (s.withResults S D))) : Blind S D s op :=
  blind_of_commutes (s.core.raiseCmdError_withResults S D e) here there

/-- The acceptance of a command, where its issue neither looks at the results nor writes them. -/
theorem blind_acceptCommand (needsTable : Bool) {issue : CoreState → CoreState}
    (commutes : ∀ c : CoreState, issue (c.withResults S D) = (issue c).withResults S D) :
    Blind S D s (acceptCommand needsTable issue) := by
  by_cases idle : s.core.pend = .none
  · by_cases table : needsTable = true → s.core.tv = true
    · exact blind_of_commutes (commutes s.core) (acceptCommand_idle idle table) (acceptCommand_idle idle table)
    · obtain ⟨rfl, noTable⟩ : needsTable = true ∧ s.core.tv = false := by simpa using table
      exact blind_raise (acceptCommand_noTable idle noTable) (acceptCommand_noTable idle noTable)
  · exact blind_raise (acceptCommand_busy idle) (acceptCommand_busy idle)

theorem blind_submitCommand (w : Word) : Blind S D s (submitCommand w) := by
  cases word : decode w with
  | ok i =>
    unfold Blind
    simp only [submitCommand_of_decode word]
    cases i with
    | expand => exact blind_acceptCommand false fun _ => rfl
    | encrypt => exact blind_acceptCommand true fun _ => rfl
    | decrypt => exact blind_acceptCommand true fun _ => rfl
  | error e =>
    by_cases idle : s.core.pend = .none
    · exact blind_raise (submitCommand_illegal idle ⟨e, word⟩) (submitCommand_illegal idle ⟨e, word⟩)
    · exact blind_raise (submitCommand_busy idle w)
        (submitCommand_busy (s := s.withResults S D) idle w)

/-- No write of the host looks at the table's storage or at DOUT, and none changes them (R37). -/
theorem blind_memWrite (off : Offset) (v : Word) : Blind S D s (memWrite off v) := by
  cases at_off : regAt off with
  | key n => exact ⟨_, memWrite_key at_off v s, memWrite_key at_off v _⟩
  | din n => exact ⟨_, memWrite_din at_off v s, memWrite_din at_off v _⟩
  | dout n => exact ⟨_, memWrite_dout at_off v s, memWrite_dout at_off v _⟩
  | cmd =>
    unfold Blind
    simp only [memWrite_cmd at_off]
    exact blind_submitCommand v
  | status =>
    exact blind_of_commutes (s.core.writeStatus_withResults S D v) (memWrite_status at_off v s)
      (memWrite_status at_off v _)
  | table i => exact ⟨_, memWrite_table at_off v s, memWrite_table at_off v _⟩
  | reserved => exact ⟨_, memWrite_reserved at_off v s, memWrite_reserved at_off v _⟩

/-- A read answers the same word, a draw where the register is not ready (R38). -/
theorem memRead_withResults (unseen : s.core.Unseen S D) (off : Offset) :
    memRead off (s.withResults S D) = ((memRead off s).1, (memRead off s).2.withResults S D) := by
  cases at_off : regAt off with
  | key n => simp only [memRead_key at_off]; rfl
  | din n => simp only [memRead_din at_off]; rfl
  | dout n =>
    cases pending : s.core.pend.transforming with
    | true =>
      rw [memRead_dout_pending at_off pending, memRead_dout_pending (s := s.withResults S D) at_off pending]
      rfl
    | false =>
      rw [memRead_dout_ready at_off pending, memRead_dout_ready (s := s.withResults S D) at_off pending,
        unseen.result pending]
      rfl
  | cmd => simp only [memRead_cmd at_off]
  | status => simp only [memRead_status_at at_off]; rfl
  | table i =>
    cases valid : s.core.tv with
    | true =>
      rw [memRead_table_valid at_off valid, memRead_table_valid (s := s.withResults S D) at_off valid,
        unseen.table (.inl valid)]
      rfl
    | false =>
      rw [memRead_table_invalid at_off valid, memRead_table_invalid (s := s.withResults S D) at_off valid]
      rfl
  | reserved => simp only [memRead_reserved at_off]

end

/-- What a move from the core `c` to the core `d` makes of the other results: they stay unseen, and one that was the
core's own is the core's own after it. -/
structure Carried (S : Table) (D : Vector Word 2) (c d : CoreState) (S' : Table) (D' : Vector Word 2) : Prop where
  unseen : d.Unseen S' D'
  table : S = c.S → S' = d.S
  result : D = c.dout → D' = d.dout

variable {S : Table} {D : Vector Word 2} {c d : CoreState}

theorem carried_same (unseen : c.Unseen S D) : Carried S D c c S D := ⟨unseen, id, id⟩

/-- A write leaves both results alone, and makes neither of them seen: a transform is issued only with TV = 1. -/
theorem carried_write {off : Offset} {v : Word} (move : WriteMove off v c d) (unseen : c.Unseen S D) :
    Carried S D c d S D := by
  obtain ⟨table, result⟩ := unseen
  cases move with
  | key | din | ignored => exact ⟨⟨table, result⟩, id, id⟩
  | status | rejected => exact ⟨⟨by simpa using table, by simpa using result⟩, by simp, by simp⟩
  | expand _ idle => exact ⟨⟨by simp [Pending.transforming], fun _ => result (by rw [idle]; rfl)⟩, id, id⟩
  | encrypt _ _ valid | decrypt _ _ valid => exact ⟨⟨fun _ => table (.inl valid), nofun⟩, id, id⟩

/-- The commuting step: from other results that are unseen the step goes on where it did. A completion of EXPAND leaves
the table it writes, a completion of a transform and a reset leave the DOUT they write. -/
theorem step_withResults (unseen : s.core.Unseen S D) (h : step s = .next t) :
    ∃ S' D', step (s.withResults S D) = .next (t.withResults S' D') ∧ Carried S D s.core t.core S' D' := by
  have same := carried_same unseen
  cases step_cases h with
  | hostDone turn line =>
    exact ⟨S, D, (step_host (s := s.withResults S D) turn).trans (hostTurn_nil line), same⟩
  | read off rest turn line aligned =>
    refine ⟨S, D, ?_, by simpa using same⟩
    rw [step_read_aligned (s := s.withResults S D) turn line aligned]
    exact congrArg (fun r => Host.Outcome.next (State.logRead off r.1 r.2))
      (memRead_withResults (s := afterLine s rest) unseen off)
  | write off v rest c turn line aligned move =>
    obtain ⟨d, here, there⟩ := blind_memWrite (S := S) (D := D) (s := afterLine s rest) off v
    cases (here.symm.trans (step_write_aligned turn line aligned).symm).trans h
    exact ⟨S, D, (step_write_aligned (s := s.withResults S D) turn line aligned).trans there,
      carried_write move unseen⟩
  | pollAgain rest turn line busy => exact ⟨S, D, step_poll_busy (s := s.withResults S D) turn line busy, same⟩
  | pollDone rest turn line idle => exact ⟨S, D, step_poll_idle (s := s.withResults S D) turn line idle, same⟩
  | coreIdle turn idle => exact ⟨S, D, step_core_idle (s := s.withResults S D) turn idle, same⟩
  | doneExpand kb turn pending =>
    refine ⟨expandKey kb, D, ?_, ⟨⟨fun _ => rfl, fun _ => unseen.result (by rw [pending]; rfl)⟩, fun _ => rfl, id⟩⟩
    exact (step_core (s := s.withResults S D) turn).trans
      (congrArg Host.Outcome.next (coreTurn_expand (s := takeTurn (s.withResults S D)) pending))
  | doneEncrypt m0 m1 turn pending =>
    obtain rfl : S = s.core.S := unseen.table (.inr (by rw [pending]; rfl))
    exact ⟨_, _, step_encrypt_pending (s := s.withResults s.core.S D) turn pending,
      ⟨⟨fun _ => rfl, fun _ => rfl⟩, fun _ => rfl, fun _ => rfl⟩⟩
  | doneDecrypt c0 c1 turn pending =>
    obtain rfl : S = s.core.S := unseen.table (.inr (by rw [pending]; rfl))
    exact ⟨_, _, step_decrypt_pending (s := s.withResults s.core.S D) turn pending,
      ⟨⟨fun _ => rfl, fun _ => rfl⟩, fun _ => rfl, fun _ => rfl⟩⟩
  | reset turn =>
    exact ⟨S, s.core.resetCore.dout, step_reset (s := s.withResults S D) turn,
      ⟨⟨by simp [Pending.transforming], fun _ => rfl⟩, id, fun _ => rfl⟩⟩

/-- The two machines are equal but for the table's storage, which no one sees. -/
def EqualButTable (s s' : State) : Prop :=
  ∃ S, s' = s.withResults S s.core.dout ∧ s.core.Unseen S s.core.dout

/-- The two machines are equal but for DOUT, which no one sees. -/
def EqualButDout (s s' : State) : Prop :=
  ∃ D, s' = s.withResults s.core.S D ∧ s.core.Unseen s.core.S D

theorem step_simulates_butTable (s s' t : State) (hs : EqualButTable s s') (h : step s = .next t) :
    ∃ t', step s' = .next t' ∧ EqualButTable t t' := by
  obtain ⟨S, rfl, unseen⟩ := hs
  obtain ⟨S', D', run, carried⟩ := step_withResults unseen h
  obtain rfl := carried.result rfl
  exact ⟨_, run, S', rfl, carried.unseen⟩

theorem step_simulates_butDout (s s' t : State) (hs : EqualButDout s s') (h : step s = .next t) :
    ∃ t', step s' = .next t' ∧ EqualButDout t t' := by
  obtain ⟨D, rfl, unseen⟩ := hs
  obtain ⟨S', D', run, carried⟩ := step_withResults unseen h
  obtain rfl := carried.table rfl
  exact ⟨_, run, D', rfl, carried.unseen⟩

/-- By the invariant no transform is pending while TV = 0. -/
theorem StatusInv.not_transforming (inv : StatusInv c) (invalid : c.tv = false) : c.pend.transforming = false := by
  cases pending : c.pend with
  | none | expand => rfl
  | encrypt m0 m1 => exact absurd ((inv.encryptPending m0 m1 pending).1.symm.trans invalid) (by decide)
  | decrypt c0 c1 => exact absurd ((inv.decryptPending c0 c1 pending).1.symm.trans invalid) (by decide)

/-- Settles O48: with TV = 0 the table is unseen, and being equal but for an unseen table is carried on by every run. -/
theorem invalidTableIsNeverObserved : Obligations.InvalidTableIsNeverObserved := by
  intro s S n t inv invalid h
  have unseen : s.core.Unseen S s.core.dout :=
    ⟨by simp [invalid, inv.not_transforming invalid], fun _ => rfl⟩
  obtain ⟨_, run, S', rfl, unseen'⟩ := runSteps_simulates step_simulates_butTable ⟨S, rfl, unseen⟩ h
  exact ⟨S', run, fun valid => unseen'.table (.inl valid)⟩

/-- Settles O49: while a transform is pending DOUT is unseen, and being equal but for an unseen DOUT is carried on by
every run. -/
theorem unreadyResultIsNeverObserved : Obligations.UnreadyResultIsNeverObserved := by
  intro s D n t pending h
  have unseen : s.core.Unseen s.core.S D := ⟨fun _ => rfl, by simp [pending]⟩
  obtain ⟨_, run, D', rfl, unseen'⟩ := runSteps_simulates step_simulates_butDout ⟨D, rfl, unseen⟩ h
  exact ⟨D', run, unseen'.result⟩

/-! ### WAIT (R108) -/

/-- The host is at a WAIT, with the number of steps that can still come before its last poll. -/
inductive Waiting (rest : List HostOp) : State → Nat → Prop where
  | pending {s : State} (line : s.program = .wait :: rest) (busy : s.core.pend ≠ .none) :
      Waiting rest s (s.sched.length + 1)
  | completed {s : State} (line : s.program = .wait :: rest) (idle : s.core.pend = .none) :
      Waiting rest s s.sched.length

/-- The host is past its WAIT, and nothing is pending. -/
def WaitDone (rest : List HostOp) (t : State) : Prop := t.program = rest ∧ t.core.pend = .none

/-- A reset comes only where the schedule gives one. -/
theorem sched_tail_lt_of_reset (turn : whoseTurn s = .reset) : s.sched.tail.length < s.sched.length :=
  sched_tail_lt (by rw [turn]; split <;> decide)

/-- A completion and a reset end the wait for the operation; every other step that does not end the WAIT uses up a turn
of the schedule. -/
theorem Waiting.progress {rest : List HostOp} (s : State) (k : Nat) (h : Waiting rest s k) :
    ∃ t, step s = .next t ∧ (WaitDone rest t ∨ ∃ j < k, Waiting rest t j) := by
  cases h with
  | pending line busy =>
    cases turn : whoseTurn s with
    | host =>
      have shorter : s.sched.tail.length < s.sched.length := sched_tail_lt (by simp [turn, busy])
      exact ⟨_, step_poll_busy turn line busy, .inr ⟨_, Nat.succ_lt_succ shorter, .pending line busy⟩⟩
    | core =>
      refine ⟨_, step_core turn, .inr ⟨_, ?_, .completed (by simpa using line) (coreTurn_pend _)⟩⟩
      simp only [coreTurn_sched, takeTurn_sched, List.length_tail]
      omega
    | reset =>
      exact ⟨_, step_reset turn, .inr ⟨_, (sched_tail_lt_of_reset turn).trans (Nat.lt_succ_self _),
        .completed line rfl⟩⟩
  | completed line idle =>
    cases turn : whoseTurn s with
    | host => exact ⟨_, step_poll_idle turn line idle, .inl ⟨rfl, idle⟩⟩
    | core =>
      have shorter : s.sched.tail.length < s.sched.length := sched_tail_lt (by simp [turn, idle])
      exact ⟨_, step_core_idle turn idle, .inr ⟨_, shorter, .completed line idle⟩⟩
    | reset => exact ⟨_, step_reset turn, .inr ⟨_, sched_tail_lt_of_reset turn, .completed line rfl⟩⟩

/-- Settles O52: a waiting host is within its bound from the start, by whether an operation is pending. -/
theorem everyWaitEnds : Obligations.EveryWaitEnds := by
  intro s rest line
  by_cases idle : s.core.pend = .none
  · obtain ⟨n, t, bound, run, done⟩ := runSteps_reaches Waiting.progress (.completed line idle)
    exact ⟨n, t, by omega, run, done⟩
  · exact runSteps_reaches Waiting.progress (.pending line idle)

/-! ### Writes to KEY and DIN (R105) -/

/-- The core with its KEY and DIN registers changed, each by what it held. -/
def CoreState.mapInputs (key : KeyWords → KeyWords) (din : Vector Word 2 → Vector Word 2)
    (c : CoreState) : CoreState :=
  { c with key := key c.key, din := din c.din }

/-- A write below DOUT is a write to KEY or to DIN, whatever the core holds. -/
theorem memWrite_input {off : Offset} (input : off.toNat < 0x18) (v : Word) :
    ∃ key din, ∀ s : State, memWrite off v s = .next (s.withCore (s.core.mapInputs key din)) := by
  by_cases below : off.toNat < 0x10
  · exact ⟨fun key => key.set (off.toNat / 4) v, id, memWrite_key (dif_pos below) v⟩
  · exact ⟨id, fun din => din.set ((off.toNat - 0x10) / 4) v, memWrite_din ((dif_neg below).trans (dif_pos input)) v⟩

/-- The machine after such a write, with the host's lines and the schedule that are left. -/
def State.afterInput (key : KeyWords → KeyWords) (din : Vector Word 2 → Vector Word 2) (rest : List HostOp)
    (ts : List Turn) (s : State) : State :=
  { s with core := s.core.mapInputs key din, program := rest, sched := ts }

/-- The host's step, where its line is an aligned write to KEY or DIN. -/
theorem step_writeInput {off : Offset} {v : Word} (input : off.toNat < 0x18) (aligned : off.toNat % 4 = 0) :
    ∃ key din, ∀ (s : State) (rest : List HostOp), whoseTurn s = .host → s.program = .write off 4 v :: rest →
      step s = .next (s.afterInput key din rest s.sched.tail) := by
  obtain ⟨key, din, write⟩ := memWrite_input input v
  exact ⟨key, din, fun s rest turn line => (step_write_aligned turn line aligned).trans (write (afterLine s rest))⟩

/-- The completion works on the operands it was issued with (R27), not on KEY and DIN as they stand. -/
theorem coreTurn_afterInput (key : KeyWords → KeyWords) (din : Vector Word 2 → Vector Word 2) (rest : List HostOp)
    (ts : List Turn) (s : State) :
    coreTurn (s.afterInput key din rest ts) = (coreTurn s).afterInput key din rest ts := by
  cases pending : s.core.pend with
  | none => rw [coreTurn_idle pending, coreTurn_idle (s := s.afterInput key din rest ts) pending]
  | expand kb => rw [coreTurn_expand pending, coreTurn_expand (s := s.afterInput key din rest ts) pending]; rfl
  | encrypt m0 m1 => rw [coreTurn_encrypt pending, coreTurn_encrypt (s := s.afterInput key din rest ts) pending]; rfl
  | decrypt c0 c1 => rw [coreTurn_decrypt pending, coreTurn_decrypt (s := s.afterInput key din rest ts) pending]; rfl

theorem whoseTurn_of_sched {turn : Turn} {ts : List Turn} (h : s.sched = turn :: ts) : whoseTurn s = turn := by
  rw [whoseTurn, h]

/-- Settles O47: both orders come to the completed machine with its inputs changed. -/
theorem inputWritesCommuteWithCompletion : Obligations.InputWritesCommuteWithCompletion := by
  intro s off v rest ts _ line aligned input
  obtain ⟨key, din, write⟩ := step_writeInput (v := v) input aligned
  have first : step { s with sched := .host :: .core :: ts } = .next (s.afterInput key din rest (.core :: ts)) :=
    write _ rest rfl line
  refine ⟨⟨_, first, rfl⟩, (coreTurn { s with sched := .host :: ts }).afterInput key din rest ts, ?_, ?_⟩
  · have second : step (s.afterInput key din rest (.core :: ts)) = .next (coreTurn (s.afterInput key din rest ts)) :=
      step_core rfl
    have commutes := coreTurn_afterInput key din rest ts { s with sched := .host :: ts }
    exact ((runSteps_succ 1 first).trans (runSteps_succ 0 second)).trans (congrArg Host.Outcome.next commutes)
  · have second := write (coreTurn { s with sched := .host :: ts }) rest
      (whoseTurn_of_sched (coreTurn_sched _)) ((coreTurn_program _).trans line)
    rw [coreTurn_sched] at second
    exact (runSteps_succ 1 (step_core rfl)).trans (runSteps_succ 0 second)

/-! ### Reset (R96, R98) -/

/-- Settles O37: a reset's step is `resetCore` with some datapath working state. -/
theorem resetEffects : Obligations.ResetEffects :=
  ⟨fun _ turn => ⟨_, _, step_reset turn, rfl⟩, _, _, rfl⟩

/-- Settles O38: the acceptance of each command on an idle core with no table. -/
theorem firstCommandAfterReset : Obligations.FirstCommandAfterReset := by
  refine ⟨fun _ => ⟨rfl, rfl⟩, fun s idle noTable noError => ⟨?_, fun i other => ?_⟩⟩
  · exact ⟨_, acceptCommand_idle idle (by simp), rfl, noError⟩
  · have rejected : exec i s = .next (raiseCmdError .noTable s) := by
      cases i with
      | expand => exact absurd rfl other
      | encrypt | decrypt => exact acceptCommand_noTable idle noTable
    exact ⟨_, rejected, by simpa using idle, by simp, by simp [CoreState.raiseCmdError_errcode, noError]; rfl⟩

end Sys2Proof.Machine

/-! ## The remaining statements: the status invariant, what each step does to the status fields, the frame of the
commands, the register map, SETKEY and WAIT -/

namespace Sys2Proof.Machine

variable {s t : State}

/-! ### The status invariant (R19 to R23, R84) -/

/-- A rejected command records one of the three codes, unless one is recorded already, and changes nothing else. -/
theorem StatusInv.raiseCmdError {c : CoreState} (inv : StatusInv c) (e : CmdError) :
    StatusInv (c.raiseCmdError e) := by
  cases error : c.err with
  | true => rwa [CoreState.raiseCmdError_again error]
  | false =>
    rw [CoreState.raiseCmdError_first error]
    exact { inv with
      codeWithoutError := by simp
      codeOfError := fun _ => e.code_cases }

/-- A write to STATUS clears ERR and ERRCODE together, or changes nothing. -/
theorem StatusInv.writeStatus {c : CoreState} (inv : StatusInv c) (v : Word) : StatusInv (c.writeStatus v) := by
  unfold CoreState.writeStatus
  split
  · exact { inv with
      codeWithoutError := fun _ => rfl
      codeOfError := by simp }
  · exact inv

/-- The issue of EXPAND drops the table and names the operation. -/
theorem StatusInv.issueExpand {c : CoreState} (inv : StatusInv c) : StatusInv (issueExpand c) :=
  { inv with
    lastopCode := .inr (.inl rfl)
    nothingAccepted := by simp
    expandPending := fun _ _ => ⟨rfl, rfl⟩
    encryptPending := by simp
    decryptPending := by simp
    tableExpanded := by simp }

/-- ENCRYPT is issued only with a table, which stays. -/
theorem StatusInv.issueEncrypt {c : CoreState} (inv : StatusInv c) (table : c.tv = true) :
    StatusInv (issueEncrypt c) :=
  { inv with
    lastopCode := .inr (.inr (.inl rfl))
    nothingAccepted := by simp
    expandPending := by simp
    encryptPending := fun _ _ _ => ⟨table, rfl⟩
    decryptPending := by simp }

/-- DECRYPT is issued only with a table, which stays. -/
theorem StatusInv.issueDecrypt {c : CoreState} (inv : StatusInv c) (table : c.tv = true) :
    StatusInv (issueDecrypt c) :=
  { inv with
    lastopCode := .inr (.inr (.inr rfl))
    nothingAccepted := by simp
    expandPending := by simp
    encryptPending := by simp
    decryptPending := fun _ _ _ => ⟨table, rfl⟩ }

theorem StatusInv.write {off : Offset} {v : Word} {c d : CoreState} (inv : StatusInv c) (move : WriteMove off v c d) :
    StatusInv d := by
  cases move with
  | key | din => exact { inv with }
  | status => exact inv.writeStatus v
  | ignored => exact inv
  | rejected _ e => exact inv.raiseCmdError e
  | expand => exact inv.issueExpand
  | encrypt _ _ table => exact inv.issueEncrypt table
  | decrypt _ _ table => exact inv.issueDecrypt table

/-- The completion of EXPAND makes the table an expansion. That EXPAND was pending says that a command was accepted, so
this is not a table before any command. -/
theorem StatusInv.doneExpand {c : CoreState} (inv : StatusInv c) {kb : KeyBytes} (pending : c.pend = .expand kb)
    (dp : Datapath) : StatusInv { completeExpand kb c with datapath := dp } :=
  { inv with
    nothingAccepted := fun noCommand => absurd ((inv.nothingAccepted noCommand).1.symm.trans pending) (by simp)
    expandPending := by simp
    encryptPending := by simp
    decryptPending := by simp
    tableExpanded := fun _ => ⟨kb, rfl⟩ }

/-- The completion of a transform only ends the operation. -/
theorem StatusInv.writeResult {c : CoreState} (inv : StatusInv c) (M : Block) (dp : Datapath) :
    StatusInv { writeResult M c with datapath := dp } :=
  { inv with
    nothingAccepted := fun noCommand => ⟨rfl, (inv.nothingAccepted noCommand).2⟩
    expandPending := by simp [Machine.writeResult]
    encryptPending := by simp [Machine.writeResult]
    decryptPending := by simp [Machine.writeResult] }

/-- A core with no error, no operation and no table, before any command. -/
theorem StatusInv.of_cleared {c : CoreState} (err : c.err = false) (code : c.errcode = 0) (lastop : c.lastop = 0)
    (pend : c.pend = .none) (tv : c.tv = false) : StatusInv c := by
  constructor <;> simp [err, code, lastop, pend, tv]

theorem StatusInv.of_coreMove {c d : CoreState} (inv : StatusInv c) (move : CoreMove c d) : StatusInv d := by
  cases move with
  | same => exact inv
  | write off v d move => exact inv.write move
  | doneExpand kb dp pending => exact inv.doneExpand pending dp
  | doneEncrypt m0 m1 dp => exact inv.writeResult _ dp
  | doneDecrypt c0 c1 dp => exact inv.writeResult _ dp
  | reset dp => exact .of_cleared rfl rfl rfl rfl rfl

/-- Settles O40: every move of the core keeps the invariant. -/
theorem statusInvariantKeptByEveryStep : Obligations.StatusInvariantKeptByEveryStep :=
  fun _ _ inv h => inv.of_coreMove (step_core_cases h)

/-- Settles O39: after power-on everything the invariant speaks of is cleared. -/
theorem statusInvariantAtReset : Obligations.StatusInvariantAtReset :=
  .of_cleared rfl rfl rfl rfl rfl

/-! ### The issue of a command, for all three alike (R64, R73, R77) -/

/-- What the issue of a command does to the core. -/
def issueOf : Instr → CoreState → CoreState
  | .expand => issueExpand
  | .encrypt => issueEncrypt
  | .decrypt => issueDecrypt

theorem exec_eq_issueOf (i : Instr) (s : State) : exec i s = acceptCommand (i != .expand) (issueOf i) s := by
  cases i <;> rfl

/-- An issue writes PEND, TV and LASTOP and nothing else. -/
theorem issueOf_frame (i : Instr) (c : CoreState) :
    issueOf i c =
      { c with pend := (issueOf i c).pend, lastop := opcodeOf i, tv := c.tv && i != .expand } := by
  cases i with
  | expand => simp [issueOf, issueExpand, opcodeOf]
  | encrypt => simp [issueOf, issueEncrypt, opcodeOf]
  | decrypt => simp [issueOf, issueDecrypt, opcodeOf]

theorem issueOf_pend_ne_none (i : Instr) (c : CoreState) : (issueOf i c).pend ≠ .none := by
  cases i <;> simp [issueOf]

/-- Everything a command can do: raise an error, or be issued. -/
theorem exec_cases {i : Instr} (h : exec i s = .next t) :
    (∃ e, t = raiseCmdError e s) ∨ t = s.withCore (issueOf i s.core) := by
  rw [exec_eq_issueOf] at h
  obtain ⟨_, rfl⟩ | ⟨_, _, _, rfl⟩ | ⟨_, _, rfl⟩ := acceptCommand_cases h
  · exact .inl ⟨_, rfl⟩
  · exact .inl ⟨_, rfl⟩
  · exact .inr rfl

/-- Settles O12: a rejection touches the error fields alone, an issue PEND, TV and LASTOP alone. -/
theorem commandFrame : Obligations.CommandFrame := by
  intro i s t h
  obtain ⟨e, rfl⟩ | rfl := exec_cases h
  · have kept (error : s.core.err = true) := congrArg CoreState.errcode (CoreState.raiseCmdError_again error e)
    rw [raiseCmdError_core, CoreState.raiseCmdError_frame]
    exact ⟨rfl, rfl, rfl, rfl, rfl, rfl, rfl, rfl, rfl, .inr ⟨rfl, kept, rfl, rfl, rfl⟩⟩
  · have pending := issueOf_pend_ne_none i s.core
    rw [issueOf_frame]
    exact ⟨rfl, rfl, rfl, rfl, rfl, rfl, rfl, rfl, rfl, .inl ⟨rfl, rfl, pending, rfl, rfl⟩⟩

/-! ### What a step does to PEND, TV, LASTOP and DOUT (R16, R19, R20, R23) -/

/-- A write leaves PEND, TV and LASTOP alone, or it is a command's word to CMD on an idle core and issues it. -/
theorem WriteMove.operation_cases {off : Offset} {v : Word} {c d : CoreState} (move : WriteMove off v c d) :
    (d.pend = c.pend ∧ d.tv = c.tv ∧ d.lastop = c.lastop) ∨
    (regAt off = .cmd ∧ c.pend = .none ∧ ∃ i, v = encode i ∧ d = issueOf i c) := by
  cases move with
  | status => exact .inl ⟨c.writeStatus_pend v, c.writeStatus_tv v, c.writeStatus_lastop v⟩
  | rejected _ e => exact .inl ⟨c.raiseCmdError_pend e, c.raiseCmdError_tv e, c.raiseCmdError_lastop e⟩
  | key | din | ignored => exact .inl ⟨rfl, rfl, rfl⟩
  | expand at_off idle word => exact .inr ⟨at_off, idle, .expand, decode_eq_ok_iff.1 word, rfl⟩
  | encrypt at_off idle _ word => exact .inr ⟨at_off, idle, .encrypt, decode_eq_ok_iff.1 word, rfl⟩
  | decrypt at_off idle _ word => exact .inr ⟨at_off, idle, .decrypt, decode_eq_ok_iff.1 word, rfl⟩

/-- The step is the host's write of a command's word to CMD on an idle core, which issues the command. -/
structure Issues (i : Instr) (s t : State) : Prop where
  turn : whoseTurn s = .host
  line : ∃ rest, s.program = .write 0x20#8 4 (encode i) :: rest
  idle : s.core.pend = .none
  core : t.core = issueOf i s.core

/-- Everything a step can do to PEND, TV and LASTOP. -/
inductive OperationMove (s t : State) : Prop where
  | kept (turn : whoseTurn s = .host) (pend : t.core.pend = s.core.pend) (tv : t.core.tv = s.core.tv)
      (lastop : t.core.lastop = s.core.lastop)
  | issued (i : Instr) (issues : Issues i s t)
  | completed (turn : whoseTurn s = .core) (pend : t.core.pend = .none) (lastop : t.core.lastop = s.core.lastop)
      (tv : t.core.tv = s.core.tv ∨ ∃ kb, s.core.pend = .expand kb ∧ t.core.S = expandKey kb ∧ t.core.tv = true)
  | reset (turn : whoseTurn s = .reset) (pend : t.core.pend = .none) (tv : t.core.tv = false)
      (lastop : t.core.lastop = 0)

theorem step_operation_cases (h : step s = .next t) : OperationMove s t := by
  cases step_cases h with
  | hostDone turn => exact .kept turn rfl rfl rfl
  | read off rest turn => exact .kept turn (by simp) (by simp) (by simp)
  | pollAgain rest turn => exact .kept turn rfl rfl rfl
  | pollDone rest turn => exact .kept turn rfl rfl rfl
  | write off v rest c turn line aligned move =>
    obtain ⟨pend, tv, lastop⟩ | ⟨at_off, idle, i, rfl, rfl⟩ := move.operation_cases
    · exact .kept turn pend tv lastop
    · obtain rfl := regAt_eq_cmd aligned at_off
      exact .issued i ⟨turn, ⟨rest, line⟩, idle, rfl⟩
  | coreIdle turn idle => exact .completed turn idle rfl (.inl rfl)
  | doneExpand kb turn pending => exact .completed turn rfl rfl (.inr ⟨kb, pending, rfl, rfl⟩)
  | doneEncrypt m0 m1 turn => exact .completed turn rfl rfl (.inl rfl)
  | doneDecrypt c0 c1 turn => exact .completed turn rfl rfl (.inl rfl)
  | reset turn => exact .reset turn rfl rfl rfl

namespace Issues

variable {i : Instr} (issues : Issues i s t)
include issues

theorem busy : t.core.pend ≠ .none := by
  rw [issues.core]; exact issueOf_pend_ne_none i _

theorem lastop : t.core.lastop = opcodeOf i := by
  rw [issues.core, issueOf_frame]

theorem tv : t.core.tv = (s.core.tv && i != .expand) := by
  rw [issues.core, issueOf_frame]

end Issues

/-- Settles O43: TV is set by the completion of EXPAND, and cleared by a reset and by the issue of EXPAND. -/
theorem tableValidTransitions : Obligations.TableValidTransitions := by
  intro s t h
  cases step_operation_cases h with
  | kept _ _ tv => simp +contextual [tv]
  | issued i issues =>
    cases i with
    | expand =>
      refine ⟨fun _ set => absurd set (by simp [issues.tv]), fun _ _ => .inr ?_⟩
      exact ⟨issues.turn, issues.idle, ⟨_, congrArg CoreState.pend issues.core⟩, issues.line⟩
    | encrypt | decrypt => simp +contextual [issues.tv]
  | completed turn _ _ tv =>
    obtain tv | ⟨kb, pending, table, tv⟩ := tv
    · simp +contextual [tv]
    · exact ⟨fun _ _ => ⟨turn, kb, pending, table⟩, by simp [tv]⟩
  | reset turn _ tv => exact ⟨by simp [tv], fun _ _ => .inl turn⟩

/-- Settles O44: PEND is set by an issue, which needs an idle core, and cleared by the core's turn and by a reset. -/
theorem busyTransitions : Obligations.BusyTransitions := by
  intro s t h
  cases step_operation_cases h with
  | kept turn pend => simp +contextual [turn, pend]
  | issued i issues =>
    exact ⟨fun _ _ => ⟨issues.turn, i, issues.line⟩, fun _ idle => absurd idle issues.busy,
      by simp [issues.turn], fun busy => absurd issues.idle busy⟩
  | completed turn pend => simp [turn, pend]
  | reset turn pend => simp [turn, pend]

/-- Settles O46: LASTOP changes in an issue, to the command's code, and in a reset. -/
theorem lastopNamesTheLastAcceptedCommand : Obligations.LastopNamesTheLastAcceptedCommand := by
  intro s t h
  cases step_operation_cases h with
  | kept _ pend _ lastop => simp +contextual [pend, lastop]
  | issued i issues =>
    obtain ⟨rest, line⟩ := issues.line
    exact ⟨fun _ _ => ⟨i, rest, line, issues.lastop⟩, fun _ => .inr ⟨issues.idle, issues.busy⟩⟩
  | completed _ pend lastop => simp [pend, lastop]
  | reset turn pend _ lastop => simp [turn, pend, lastop]

/-- No host write changes DOUT. -/
theorem WriteMove.dout_eq {off : Offset} {v : Word} {c d : CoreState} (move : WriteMove off v c d) :
    d.dout = c.dout := by
  cases move with
  | status => exact c.writeStatus_dout v
  | rejected _ e => exact c.raiseCmdError_dout e
  | key | din | ignored | expand | encrypt | decrypt => rfl

/-- Settles O42, over the moves of a step. -/
theorem onlyTransformCompletionWritesDout : Obligations.OnlyTransformCompletionWritesDout := by
  intro s t h changed
  cases step_cases h with
  | reset turn => exact .inl turn
  | doneEncrypt m0 m1 turn pending => exact .inr ⟨turn, m0, m1, .inl pending⟩
  | doneDecrypt c0 c1 turn pending => exact .inr ⟨turn, c0, c1, .inr pending⟩
  | write off v rest c _ _ _ move => exact absurd move.dout_eq changed
  | read => exact absurd (by simp) changed
  | hostDone | pollAgain | pollDone | coreIdle | doneExpand => exact absurd rfl changed

/-! ### The register map and the window (R31, R32) -/

theorem offsetOf_key_toNat (n : Fin 4) : (offsetOf (.key n)).toNat = 4 * n.val := by
  simp only [offsetOf, BitVec.toNat_ofNat]; omega

theorem offsetOf_din_toNat (n : Fin 2) : (offsetOf (.din n)).toNat = 0x10 + 4 * n.val := by
  simp only [offsetOf, BitVec.toNat_ofNat]; omega

theorem offsetOf_dout_toNat (n : Fin 2) : (offsetOf (.dout n)).toNat = 0x18 + 4 * n.val := by
  simp only [offsetOf, BitVec.toNat_ofNat]; omega

theorem offsetOf_table_toNat (i : Fin 26) : (offsetOf (.table i)).toNat = 0x40 + 4 * i.val := by
  simp only [offsetOf, BitVec.toNat_ofNat]; omega

theorem regAt_offsetOf {r : WindowReg} (named : r ≠ .reserved) : regAt (offsetOf r) = r := by
  cases r with
  | key n => exact regAt_key n.isLt (offsetOf_key_toNat n)
  | din n => exact regAt_din n.isLt (offsetOf_din_toNat n)
  | dout n => exact regAt_dout n.isLt (offsetOf_dout_toNat n)
  | cmd => rfl
  | status => rfl
  | table i => exact regAt_table i.isLt (offsetOf_table_toNat i)
  | reserved => exact absurd rfl named

theorem regAt_eq_reserved {off : Offset} (h : regAt off = .reserved) :
    0x28 ≤ off.toNat ∧ off.toNat < 0x40 ∨ 0xA8 ≤ off.toNat := by
  unfold regAt at h
  split_ifs at h <;> omega

/-- Settles O33: the offsets, the registers at them, and the offsets that are left. -/
theorem registerMap : Obligations.RegisterMap := by
  refine ⟨offsetOf_key_toNat, fun n => ⟨offsetOf_din_toNat n, offsetOf_dout_toNat n⟩, rfl, rfl, offsetOf_table_toNat,
    fun r => regAt_offsetOf, fun off aligned => ⟨fun reserved => ?_, fun range => regAt_reserved (by omega)⟩⟩
  have := regAt_eq_reserved reserved
  omega

theorem windowOffset_eq_some {a : Nat} {off : Offset} : windowOffset a = some off ↔ hostAddress off = a := by
  unfold windowOffset hostAddress
  constructor
  · intro h
    split at h
    · cases h
      simp only [BitVec.toNat_ofNat]; omega
    · cases h
  · rintro rfl
    have := off.isLt
    rw [if_pos (by omega), Nat.add_sub_cancel_left, BitVec.ofNat_toNat, BitVec.setWidth_eq]

/-- Settles O34: an offset and its address determine each other within the 256 addresses. -/
theorem windowPlacement : Obligations.WindowPlacement := by
  refine ⟨fun _ => windowOffset_eq_some.2 rfl, fun _ _ => windowOffset_eq_some.1, fun a => ?_⟩
  unfold windowOffset
  split
  · simp only [reduceCtorEq, false_iff]; omega
  · simp only [true_iff]; omega

/-! ### SETKEY (R54) -/

theorem whoseTurn_of_sched_nil (sched : s.sched = []) : whoseTurn s = if s.core.busy then .core else .host := by
  rw [whoseTurn, sched]

/-- A host's write to KEY, on an idle core with an empty schedule. -/
theorem step_wr_key {n : Fin 4} {v : Word} {rest : List HostOp} (idle : s.core.pend = .none) (sched : s.sched = [])
    (line : s.program = wr (.key n) v :: rest) :
    step s = .next { s with core := s.core.writeKey n v, program := rest } := by
  have turn : whoseTurn s = .host := (whoseTurn_of_sched_nil sched).trans (if_neg (by simpa using idle))
  have aligned : (offsetOf (.key n)).toNat % 4 = 0 := by rw [offsetOf_key_toNat]; omega
  rw [step_write_aligned turn line aligned, memWrite_key (regAt_offsetOf (by simp))]
  simp [afterLine, takeTurn, State.withCore, sched]

/-- KEY after some writes to it. -/
def writeKeys (writes : List (Fin 4 × Word)) (key : KeyWords) : KeyWords :=
  writes.foldl (fun key w => key.set w.1 w.2) key

theorem runSteps_wr_keys (writes : List (Fin 4 × Word)) {rest : List HostOp} (idle : s.core.pend = .none)
    (sched : s.sched = []) (line : s.program = writes.map (fun w => wr (.key w.1) w.2) ++ rest) :
    runSteps writes.length s =
      .next { s with program := rest, core := { s.core with key := writeKeys writes s.core.key } } := by
  induction writes generalizing s with
  | nil => rw [← show s.program = rest from line]; rfl
  | cons w ws ih =>
    refine (runSteps_succ ws.length (step_wr_key idle sched line)).trans (ih ?_ ?_ ?_)
    · exact idle
    · exact sched
    · rfl

/-- The writes of SETKEY fill KEY, whatever it held. -/
theorem writeKeys_all (key : KeyWords) (f : Fin 4 → Word) :
    writeKeys [(0, f 0), (1, f 1), (2, f 2), (3, f 3)] key = Vector.ofFn f := by
  refine Vector.ext fun n hn => ?_
  rw [Vector.getElem_ofFn]
  match n with
  | 0 | 1 | 2 | 3 => simp [writeKeys]

section

variable {w : Nat} (x : BitVec w) (y : Byte) {j : Nat}

theorem getLsbD_append_first_byte (hj : j < 8) : (x ++ y).getLsbD (8 * 0 + j) = y.getLsbD j := by
  simp [BitVec.getLsbD_append, hj]

theorem getLsbD_append_next_byte (b : Nat) : (x ++ y).getLsbD (8 * (b + 1) + j) = x.getLsbD (8 * b + j) := by
  rw [BitVec.getLsbD_append, if_neg (by omega)]
  congr 1
  omega

end

/-- A byte of the word that SETKEY writes. -/
theorem keyWord_byte (k : KeyBytes) (n : Fin 4) {b : Nat} (h : b < 4) :
    (keyWord k n >>> (8 * b)).setWidth 8 = k[4 * n.val + b] := by
  refine BitVec.eq_of_getLsbD_eq fun j hj => ?_
  have bytes : (keyWord k n).getLsbD (8 * b + j) =
      (k[4 * n.val + 3] ++ k[4 * n.val + 2] ++ k[4 * n.val + 1] ++ k[4 * n.val]).getLsbD (8 * b + j) := rfl
  rw [BitVec.getLsbD_setWidth, BitVec.getLsbD_ushiftRight, bytes, decide_eq_true hj, Bool.true_and]
  match b, h with
  | 0, _ => exact getLsbD_append_first_byte _ _ hj
  | 1, _ => rw [getLsbD_append_next_byte, getLsbD_append_first_byte _ _ hj]
  | 2, _ => rw [getLsbD_append_next_byte, getLsbD_append_next_byte, getLsbD_append_first_byte _ _ hj]
  | 3, _ =>
    rw [getLsbD_append_next_byte, getLsbD_append_next_byte, getLsbD_append_next_byte, Nat.mul_zero, Nat.zero_add]

/-- The four words of SETKEY, read as bytes, are the key. -/
theorem keySnapshot_keyWord (k : KeyBytes) : keySnapshot (Vector.ofFn (keyWord k)) = k := by
  refine Vector.ext fun x hx => ?_
  have byte := keySnapshot_getElem (Vector.ofFn (keyWord k)) (n := x / 4) (b := x % 4) (by omega) (by omega)
  rw [Vector.getElem_ofFn, keyWord_byte k _ (by omega)] at byte
  simpa only [Nat.div_add_mod] using byte

/-- Settles O35: the four lines write the four words, whose bytes are the key's. -/
theorem setKeyLoadsTheKey : Obligations.SetKeyLoadsTheKey := by
  intro k s rest idle sched line
  have run := runSteps_wr_keys [(0, keyWord k 0), (1, keyWord k 1), (2, keyWord k 2), (3, keyWord k 3)] idle sched line
  rw [writeKeys_all] at run
  exact ⟨_, run, keySnapshot_keyWord k, rfl⟩

/-! ### The step, in the cases with a statement of their own -/

/-- Settles O1: the three words and their neighbours are concrete. -/
theorem writtenCommandWordsDecode : Obligations.WrittenCommandWordsDecode := by
  unfold Obligations.WrittenCommandWordsDecode
  decide

/-- Settles O3: the write submits its word, and submitting a command's word is the command. -/
theorem stepRunsTheDecodedCommand : Obligations.StepRunsTheDecodedCommand :=
  fun _ _ _ _ turn line word => (step_writeCmd turn line).trans (submitCommand_of_decode word _)

/-- Settles O5: the schedule's first entry, and after it whether the core is busy. -/
theorem scheduleDecidesTheTurn : Obligations.ScheduleDecidesTheTurn :=
  ⟨fun _ _ _ sched => whoseTurn_of_sched sched,
    fun _ sched busy => (whoseTurn_of_sched_nil sched).trans (if_pos (by simpa using busy)),
    fun _ sched idle => (whoseTurn_of_sched_nil sched).trans (if_neg (by simpa using idle))⟩

/-- Settles O36: a poll by whether the core is busy. -/
theorem waitPollsStatus : Obligations.WaitPollsStatus :=
  fun _ _ turn line => ⟨step_poll_busy turn line, step_poll_idle turn line⟩

/-- Settles O55: a reset's step takes the turn and acts on the core alone. -/
theorem resetLeavesTheHostAsItWas : Obligations.ResetLeavesTheHostAsItWas :=
  fun _ turn => ⟨_, step_reset turn, rfl, rfl, rfl⟩

end Sys2Proof.Machine
